-- ==== Sys2Proof/Word.lean ====
section
/-!
DEFINITION. The quantities of the block (spec/00_scope.md R8, spec/30_encoding.md R41): the command byte, the
16-bit field being accumulated, and the transaction word. All are unsigned (00_scope.md section 5.1).
-/

namespace Sys2Proof

/-- One byte: the decoded command, and each half of a field (00_scope.md R8). -/
abbrev Byte := BitVec 8

/-- A 16-bit field, `address` or `command` (00_scope.md R8). -/
abbrev Field := BitVec 16

/-- A transaction word `TW` (30_encoding.md R41). Its width is `3 + DUR_W` bits, and `DUR_W` is a parameter of
the instance, so the word is held as the number it writes; `decode` rejects a number that is no value of it. -/
abbrev TxWord := Nat

end Sys2Proof
end

