-- ==== Sys2Proof/Config.lean ====
section
/-!
DEFINITION. The immutable configuration of one instance: the two width parameters and the ten fields of
spec/10_state.md R21 to R28, the parameter of spec/92_eei_decisions.md D29, and the defaults the spec assigns.
The block leaves no value free (spec/93_implementation_defined.md), so there is no opaque constant here.
-/

namespace Sys2Proof

/-- What the frame assembler does when the address validation fails (10_state.md R28). `continueOn` is the
spec's `Continue`. -/
inductive AddrFailPolicy where
  | restart
  | continueOn
  deriving DecidableEq, Repr

/-- The configuration record `cfg` (00_scope.md R7). It is given when an instance is constructed and no
operation writes it (00_scope.md R9). Pulse counts and durations are numbers (10_state.md R21: a model may take
them as unbounded); that each fits its width is `Config.WellFormed`. -/
structure Config where
  /-- `DUR_W`, the width of a duration and of `UNIT_PERIOD` (R21). -/
  durW : Nat
  /-- `PC_W`, the width of the six profile counts and of `pending_high` (R21). -/
  pcW : Nat
  /-- `UNIT_PERIOD`, the base timing unit (R22). -/
  unitPeriod : Nat
  /-- `LEADER_HIGH` (R23). -/
  leaderHigh : Nat
  /-- `LEADER_LOW` (R23). -/
  leaderLow : Nat
  /-- `DATA0_HIGH` (R24). -/
  data0High : Nat
  /-- `DATA0_LOW` (R24). -/
  data0Low : Nat
  /-- `DATA1_HIGH` (R25). -/
  data1High : Nat
  /-- `DATA1_LOW` (R25). -/
  data1Low : Nat
  /-- `EXP_ADDR_LOW`, compared with the first address byte received (R27). -/
  expAddrLow : Byte
  /-- `EXP_ADDR_HIGH`, compared with the second address byte received (R27). -/
  expAddrHigh : Byte
  /-- `ADDR_FAIL_POLICY` (R28). -/
  addrFailPolicy : AddrFailPolicy
  /-- `allow_split_data_high`: whether a configuration with two different data high counts is admitted
  (92_eei_decisions.md D29, 93_implementation_defined.md U5). -/
  allowSplitDataHigh : Bool
  deriving DecidableEq, Repr

/-- The defaults of 10_state.md section 5, with the default widths of R21 and the default of D29 (log 16). -/
def Config.default : Config where
  durW := 32
  pcW := 8
  unitPeriod := 560
  leaderHigh := 16
  leaderLow := 8
  data0High := 1
  data0Low := 1
  data1High := 1
  data1Low := 3
  expAddrLow := 0x00#8
  expAddrHigh := 0xFF#8
  addrFailPolicy := .restart
  allowSplitDataHigh := false

end Sys2Proof
end

