-- ==== Sys2Proof/Syntax.lean ====
section
/-!
DEFINITION. The transactions: one constructor for each row of spec/opcode_table.json, the four of the block's
port (format TOP, spec/30_encoding.md R51) and the four of the classifier's own port (format SYM, R53).
-/

namespace Sys2Proof

/-- The level of an observation (20_memory.md R31, 30_encoding.md R42). -/
inductive Level where
  | high
  | low
  deriving DecidableEq, Repr

/-- One observation `(level, raw_duration)` (20_memory.md R31). The duration counts time-units. -/
structure Observation where
  level : Level
  duration : Nat
  deriving DecidableEq, Repr

/-- The two ports a transaction word can be presented at: the block's own, and that of the symbol classifier
taken alone (30_encoding.md R51, R53). -/
inductive Port where
  | top
  | sym
  deriving DecidableEq, Repr

/-- A transaction. `duration` is the only operand (30_encoding.md R41). -/
inductive Instr where
  /-- `RESET` (42_port_operations.md R113). -/
  | reset
  /-- `OBS.H d` (R111). -/
  | obsH (d : Nat)
  /-- `OBS.L d` (R112). -/
  | obsL (d : Nat)
  /-- `NOP` (R114). -/
  | nop
  /-- `SYM.RESET` (40_symbol_classifier.md R70). -/
  | symReset
  /-- `SYM.CLASSIFY.H d` (R64). -/
  | symClassifyH (d : Nat)
  /-- `SYM.CLASSIFY.L d` (R64). -/
  | symClassifyL (d : Nat)
  /-- `SYM.NOP` (R71). -/
  | symNop
  deriving DecidableEq, Repr

end Sys2Proof
end

