-- ==== Sys2Proof/WellFormed.lean ====
section
/-!
DEFINITION. What makes a configuration and a transaction well-formed (spec/10_state.md R21, R26, R29;
spec/30_encoding.md R43).
-/

namespace Sys2Proof

/-- A configuration is well-formed when `UNIT_PERIOD >= 1`, both widths are at least 1 and every field fits its
width (10_state.md R21, R29). The address bytes and the policy fit by their types. -/
abbrev Config.WellFormed (c : Config) : Prop :=
  1 ≤ c.durW ∧ 1 ≤ c.pcW ∧ 1 ≤ c.unitPeriod ∧ c.unitPeriod < 2 ^ c.durW ∧
  c.leaderHigh < 2 ^ c.pcW ∧ c.leaderLow < 2 ^ c.pcW ∧
  c.data0High < 2 ^ c.pcW ∧ c.data0Low < 2 ^ c.pcW ∧
  c.data1High < 2 ^ c.pcW ∧ c.data1Low < 2 ^ c.pcW

/-- The two data profiles share one high count, or the parameter admits that they do not (10_state.md R26,
92_eei_decisions.md D29). -/
abbrev Config.SplitAdmitted (c : Config) : Prop :=
  c.data0High = c.data1High ∨ c.allowSplitDataHigh = true

/-- A configuration the block is run with: neither refused by R29 nor by D29. -/
abbrev Config.Admitted (c : Config) : Prop := c.WellFormed ∧ c.SplitAdmitted

/-- A transaction is well-formed at a duration width when its duration is a value of `DUR_W` bits
(30_encoding.md R43: every value 0 to 2^DUR_W - 1 is legal). -/
def Instr.wellFormed (durW : Nat) : Instr → Bool
  | .reset => true
  | .obsH d => decide (d < 2 ^ durW)
  | .obsL d => decide (d < 2 ^ durW)
  | .nop => true
  | .symReset => true
  | .symClassifyH d => decide (d < 2 ^ durW)
  | .symClassifyL d => decide (d < 2 ^ durW)
  | .symNop => true

end Sys2Proof
end

