-- ==== Sys2Proof/Machine/State.lean ====
section
/-!
DEFINITION. The machine's state: the six registers of spec/10_state.md R16, the instance's constant
configuration, and what crosses its ports. Reset is the state of spec/70_reset_and_hazards.md R140.
-/

namespace Sys2Proof.Machine

/-- `sstate`, the state register of the symbol classifier (10_state.md R10). -/
inductive SState where
  | waitHigh
  | waitLow
  deriving DecidableEq, Repr

/-- `fstate`, the state register of the frame assembler (10_state.md R11). The reserved code 3 has no member
(30_encoding.md R52). -/
inductive FState where
  | parsingLeader
  | parsingAddress
  | parsingCommand
  deriving DecidableEq, Repr

/-- The result of one classification (30_encoding.md R46). `pending` is no symbol yet; `none` is the invalid
symbol. -/
inductive SymResult where
  | pending
  | none
  | leader
  | data0
  | data1
  deriving DecidableEq, Repr

/-- The event of one step, reported on `diag` (60_exceptions.md R121). -/
inductive Event where
  | noEvent
  | timingMismatch
  | sequenceViolation
  | addrCheckFail
  | cmdCheckFail
  deriving DecidableEq, Repr

/-- The outputs of one step (42_port_operations.md R116): `cmd` is the document's optional byte. -/
structure Output where
  cmd : Option Byte
  diag : Event
  sym : SymResult
  deriving DecidableEq, Repr

/-- The outputs of a step in which the classifier is not run: `(Nothing, NoEvent, Pending)` (R113, R114). -/
def Output.idle : Output := ⟨.none, .noEvent, .pending⟩

/-- What the caller presents in one clock cycle: the hardware reset line and a transaction word
(30_encoding.md R40, R41). -/
structure Cycle where
  rst : Bool
  word : TxWord
  deriving DecidableEq, Repr

/-- The state of one instance. -/
structure State where
  /-- The configuration, constant for the life of the instance (00_scope.md R9; log 1). -/
  cfg : Config
  /-- Which port the input is presented at: the block's, or the classifier's own (30_encoding.md R53; log 3). -/
  port : Port
  /-- `sstate` (R10). -/
  sstate : SState
  /-- `pending_high` (R12), a number below 2^PC_W. -/
  pendingHigh : Nat
  /-- `fstate` (R11). -/
  fstate : FState
  /-- `address` (R13). -/
  address : Field
  /-- `command` (R14). -/
  command : Field
  /-- `bit_index` (R15). -/
  bitIndex : BitVec 5
  /-- The output ports in the step just taken; no rule reads them (R116; log 5). -/
  out : Output
  /-- The caller's input stream, the next cycle first (20_memory.md R31; log 2). -/
  input : List Cycle
  deriving DecidableEq, Repr

/-- A fault would stop the machine. There is none: "No condition in this core is fatal" (60_exceptions.md R120),
so the type has no member and nothing raises it (log 13; safe). -/
inductive Fault where
  deriving DecidableEq, Repr

/-- Why a step is not taken. Every refusal is safe: nothing is claimed of the hardware's next state. -/
inductive Refusal where
  /-- An instruction that has no meaning yet: raised by an arm of `exec` only. Safe. -/
  | notModelled (mnemonic : String)
  /-- A configuration that is not well-formed: raised by every transaction and by a hardware-reset cycle, before
  any effect (10_state.md R29, 60_exceptions.md R120; log 8). Safe. -/
  | illFormedConfig
  /-- A configuration with two data high counts where `allow_split_data_high` is false: raised likewise
  (10_state.md R26, 92_eei_decisions.md D29; log 9). Safe. -/
  | splitDataHigh
  /-- The number presented is no value of `3 + DUR_W` bits: raised by the fetch (30_encoding.md R41; log 10).
  Safe. -/
  | notATransactionWord (word : TxWord)
  deriving DecidableEq, Repr

/-- The state right after reset: the registers as 70_reset_and_hazards.md R140 gives them, the outputs of a
reset step, the default configuration, and no transaction presented yet (log 16). -/
def State.reset : State where
  cfg := Config.default
  port := .top
  sstate := .waitHigh
  pendingHigh := 0
  fstate := .parsingLeader
  address := 0x0000#16
  command := 0x0000#16
  bitIndex := 0#5
  out := Output.idle
  input := []

/-- A new instance with a configuration of its own, reset once (70_reset_and_hazards.md R143), at port `p`, with
the transactions `ws` to come. -/
def State.construct (c : Config) (p : Port) (ws : List Cycle) : State :=
  { State.reset with cfg := c, port := p, input := ws }

/-- The six registers hold their reset values (R140). -/
abbrev State.RegistersReset (s : State) : Prop :=
  s.sstate = .waitHigh ∧ s.pendingHigh = 0 ∧ s.fstate = .parsingLeader ∧
  s.address = 0#16 ∧ s.command = 0#16 ∧ s.bitIndex = 0#5

end Sys2Proof.Machine
end

