-- ==== Sys2Proof/Machine/Operands.lean ====
section
/-!
DEFINITION. The operands: the pulse count of a duration (spec/40_symbol_classifier.md R61), the two bytes of a
field (spec/20_memory.md R33), and one bit of a field written (spec/41_frame_assembler.md R85).
-/

namespace Sys2Proof.Machine

/-- The number of base units in a duration, rounded to nearest with halves up, at full precision (R61). It has
no meaning for `UNIT_PERIOD = 0`; every transaction refuses such a configuration (10_state.md R29). -/
def pulseCount (c : Config) (d : Nat) : Nat := (2 * d + c.unitPeriod) / (2 * c.unitPeriod)

/-- A pulse count as it is stored in `PC_W` bits: `pc[PC_W-1:0]` (R64). -/
def storedCount (c : Config) (pc : Nat) : Nat := pc % 2 ^ c.pcW

/-- `F[7:0]`, the eight bits received first (20_memory.md R33). -/
def lowByte (f : Field) : Byte := f.extractLsb' 0 8

/-- `F[15:8]`, the eight bits received last (20_memory.md R33). -/
def highByte (f : Field) : Byte := f.extractLsb' 8 8

/-- `F[i] <- b`, all other bits unchanged (00_scope.md section 5.2). A position outside the field names no bit,
and then nothing is written (log 11). -/
def writeBit (f : Field) (i : Nat) (b : Bool) : Field :=
  if b then f ||| (1#16 <<< i) else f &&& ~~~(1#16 <<< i)

/-- The bit a data symbol carries: `Data0` is 0 and `Data1` is 1 (41_frame_assembler.md R85). -/
def symbolBit : SymResult → Option Bool
  | .data0 => some false
  | .data1 => some true
  | .pending => .none
  | .none => .none
  | .leader => .none

end Sys2Proof.Machine
end

