-- ==== Sys2Proof/Machine/Flags.lean ====
section
/-!
DEFINITION. The block has no status flags (spec/10_state.md R18): every decision is one of the predicates here,
taken on the values of the same step. The profile predicates are spec/40_symbol_classifier.md R63, the two
integrity checks spec/41_frame_assembler.md R87 and R90.
-/

namespace Sys2Proof.Machine

/-- `high_match(pc)`: the count is one of the three profile high counts (R63). -/
def highMatch (c : Config) (pc : Nat) : Bool :=
  pc == c.leaderHigh || pc == c.data0High || pc == c.data1High

/-- `pair_class(ph, pc)`: the first exact match in the order leader, data0, data1 (R63). -/
def pairClass (c : Config) (ph pc : Nat) : SymResult :=
  if ph = c.leaderHigh ∧ pc = c.leaderLow then .leader
  else if ph = c.data0High ∧ pc = c.data0Low then .data0
  else if ph = c.data1High ∧ pc = c.data1Low then .data1
  else .none

/-- The address check: both bytes equal the configured ones (R87). It is no complement check. -/
def addressMatches (c : Config) (f : Field) : Bool :=
  lowByte f == c.expAddrLow && highByte f == c.expAddrHigh

/-- The command check: the low byte is the bitwise complement of the high byte (R90). The bitwise-AND test is
not implemented (R98). -/
def commandValid (f : Field) : Bool := lowByte f == ~~~(highByte f)

end Sys2Proof.Machine
end

