-- ==== Sys2Proof/Machine/Ops.lean ====
section
/-!
DEFINITION. The named operations over the registers and the outputs: the entry actions of
spec/41_frame_assembler.md R81 to R83, the classifier's reset (spec/40_symbol_classifier.md R70), the bit store
(R85), the reports of a step, and the refusal of a configuration. There is no memory (spec/20_memory.md R30).
-/

namespace Sys2Proof.Machine

/-- `sym_reset()` (40_symbol_classifier.md R70). -/
def symReset (s : State) : State :=
  { s with sstate := .waitHigh, pendingHigh := 0 }

/-- `enter_leader()`, the full reset (41_frame_assembler.md R81). This is the block's whole "trap entry"
(60_exceptions.md R129): nothing is saved, every register takes its reset value, there is no vector. -/
def enterLeader (s : State) : State :=
  symReset { s with fstate := .parsingLeader, address := 0#16, command := 0#16, bitIndex := 0#5 }

/-- `enter_address()` (R82). This is the block's "trap return" (60_exceptions.md R130): the next `Leader` seen
in `ParsingLeader`; there is nothing to restore. -/
def enterAddress (s : State) : State :=
  { s with fstate := .parsingAddress, address := 0#16, bitIndex := 0#5 }

/-- `enter_command()` (R83). `address` keeps its sixteen bits. -/
def enterCommand (s : State) : State :=
  { s with fstate := .parsingCommand, command := 0#16, bitIndex := 0#5 }

/-- `raise <Event>`: the event is reported on `diag` in this step (00_scope.md section 5.2). -/
def raise (e : Event) (s : State) : State :=
  { s with out := { s.out with diag := e } }

/-- `emit b`: the command output of this step is `Some b` (00_scope.md section 5.2). -/
def emit (b : Byte) (s : State) : State :=
  { s with out := { s.out with cmd := some b } }

/-- Taking an event that restarts the frame: it is reported, and the full reset is performed in the same step
(60_exceptions.md R129). -/
def takeEvent (e : Event) (s : State) : State := enterLeader (raise e s)

/-- The outputs at the start of a `parse` whose classifier result is `sym`: no byte, and `TimingMismatch` exactly
when the result is `None` (R80). -/
def startOutputs (sym : SymResult) (s : State) : State :=
  { s with out := ⟨.none, if sym = .none then .timingMismatch else .noEvent, sym⟩ }

/-- The outputs of a step in which no event is raised and no byte emitted, with the result wire at `sym`. -/
def quietOutputs (sym : SymResult) (s : State) : State :=
  { s with out := ⟨.none, .noEvent, sym⟩ }

/-- Which field a bit is stored into (R85). -/
inductive FieldReg where
  | address
  | command
  deriving DecidableEq, Repr

/-- The field's value. -/
def readField (r : FieldReg) (s : State) : Field :=
  match r with
  | .address => s.address
  | .command => s.command

/-- The field rewritten. -/
def writeField (r : FieldReg) (f : Field) (s : State) : State :=
  match r with
  | .address => { s with address := f }
  | .command => { s with command := f }

/-- `store_bit(F, b)`: the bit goes to the running index, which then advances by 1 in its five bits (R85, R99). -/
def storeBit (r : FieldReg) (b : Bool) (s : State) : State :=
  { writeField r (writeBit (readField r s) s.bitIndex.toNat b) s with bitIndex := s.bitIndex + 1#5 }

/-- The refusal a configuration meets before any step, if any (10_state.md R29, R26; 60_exceptions.md R120). -/
def configRefusal (c : Config) : Option Refusal :=
  if ¬ c.WellFormed then some .illFormedConfig
  else if ¬ c.SplitAdmitted then some .splitDataHigh
  else .none

/-- An effect, taken only under a configuration that is not refused. -/
def underConfig (f : State → State) (s : State) : Host.Outcome State Fault Refusal :=
  match configRefusal s.cfg with
  | some r => .refused r
  | .none => .next (f s)

end Sys2Proof.Machine
end

