-- ==== Sys2Proof/Machine/Classifier.lean ====
section
/-!
DEFINITION. The symbol classifier: `classify` with its four arms (spec/40_symbol_classifier.md R64 to R68), and
the meanings of the four transactions at the classifier's own port (R64, R70, R71; spec/30_encoding.md R53).
-/

namespace Sys2Proof.Machine

/-- Back to `WaitHigh` with the memo cleared, and a result: what rules R66, R67 and R68 all write. -/
def classifierDone (r : SymResult) (s : State) : State × SymResult :=
  (symReset s, r)

/-- The accepting arm of `WaitHigh` (R65): the count is remembered in `PC_W` bits. -/
def acceptHigh (pc : Nat) (s : State) : State × SymResult :=
  ({ s with pendingHigh := storedCount s.cfg pc, sstate := .waitLow }, .pending)

/-- The arms of `WaitHigh` (R65, R66). -/
def classifyWaitHigh (o : Observation) (s : State) : State × SymResult :=
  if o.level = .high ∧ highMatch s.cfg (pulseCount s.cfg o.duration) = true then
    acceptHigh (pulseCount s.cfg o.duration) s
  else classifierDone .none s

/-- The arms of `WaitLow` (R67, R68). The level is tested before the duration (60_exceptions.md R128). -/
def classifyWaitLow (o : Observation) (s : State) : State × SymResult :=
  match o.level with
  | .high => classifierDone .none s
  | .low => classifierDone (pairClass s.cfg s.pendingHigh (pulseCount s.cfg o.duration)) s

/-- `classify(O)` (R64): the registers after it, and its result. -/
def classify (o : Observation) (s : State) : State × SymResult :=
  match s.sstate with
  | .waitHigh => classifyWaitHigh o s
  | .waitLow => classifyWaitLow o s

/-- One classification at the classifier's own port: its only output is the result (30_encoding.md R53; the
block's other outputs stay silent, log 6). -/
def classifyAlone (o : Observation) (s : State) : State :=
  quietOutputs (classify o s).2 (classify o s).1

/-- `SYM.CLASSIFY.H d` (R64). -/
def execSymClassifyH (d : Nat) (s : State) : Host.Outcome State Fault Refusal :=
  underConfig (classifyAlone ⟨.high, d⟩) s

/-- `SYM.CLASSIFY.L d` (R64). -/
def execSymClassifyL (d : Nat) (s : State) : Host.Outcome State Fault Refusal :=
  underConfig (classifyAlone ⟨.low, d⟩) s

/-- `SYM.RESET` (R70). It returns no result, so the result wire reads `Pending` (30_encoding.md R46; log 6). -/
def execSymReset (s : State) : Host.Outcome State Fault Refusal :=
  underConfig (fun s => quietOutputs .pending (symReset s)) s

/-- `SYM.NOP` (R71): no register changes, and the result wire reads `Pending`. -/
def execSymNop (s : State) : Host.Outcome State Fault Refusal :=
  underConfig (quietOutputs .pending) s

end Sys2Proof.Machine
end

