-- ==== Sys2Proof/Machine/FrameAssembler.lean ====
section
/-!
DEFINITION. The frame assembler: `parse` with its three arms, the two validations and the failure action
(spec/41_frame_assembler.md R80, R84, R86 to R93).
-/

namespace Sys2Proof.Machine

/-- `address_failure_action()`, by the configured policy (R88). -/
def addressFailureAction (s : State) : State :=
  match s.cfg.addrFailPolicy with
  | .restart => enterLeader s
  | .continueOn => enterCommand s

/-- `validate_address()` (R87). -/
def validateAddress (s : State) : State :=
  if addressMatches s.cfg s.address then enterCommand s
  else addressFailureAction (raise .addrCheckFail s)

/-- `validate_command()` (R90): the low byte is emitted (R91), or the failure reported and nothing emitted
(R92); both end in the full reset. -/
def validateCommand (s : State) : State :=
  if commandValid s.command then enterLeader (emit (lowByte s.command) s)
  else takeEvent .cmdCheckFail s

/-- The arm of `ParsingLeader` (R84): anything but `Leader` is ignored. -/
def leaderArm (sym : SymResult) (s : State) : State :=
  match sym with
  | .leader => enterAddress s
  | .pending => s
  | .none => s
  | .data0 => s
  | .data1 => s

/-- A data bit of the field `r`, and the field's validation in the step that stores bit 15 (R86, R89). -/
def dataBit (r : FieldReg) (b : Bool) (validate : State → State) (s : State) : State :=
  let s' := storeBit r b s
  if s'.bitIndex = 16#5 then validate s' else s'

/-- What the arms of `ParsingAddress` and `ParsingCommand` have in common: the accumulation discipline is
identical (R86, R89). `None` was reported by `parse` already. -/
def fieldArm (r : FieldReg) (validate : State → State) (sym : SymResult) (s : State) : State :=
  match sym with
  | .data0 => dataBit r false validate s
  | .data1 => dataBit r true validate s
  | .leader => takeEvent .sequenceViolation s
  | .none => enterLeader s
  | .pending => s

/-- The arm of `ParsingAddress` (R86). -/
def addressArm (sym : SymResult) (s : State) : State := fieldArm .address validateAddress sym s

/-- The arm of `ParsingCommand` (R89). -/
def commandArm (sym : SymResult) (s : State) : State := fieldArm .command validateCommand sym s

/-- The one arm a step runs, chosen by the value of `fstate` at the start of the step (R80). -/
def frameArm (f : FState) (sym : SymResult) (s : State) : State :=
  match f with
  | .parsingLeader => leaderArm sym s
  | .parsingAddress => addressArm sym s
  | .parsingCommand => commandArm sym s

/-- `parse(O)` (R80): one `classify`, then the arm of the state the step started in. -/
def parse (o : Observation) (s : State) : State :=
  frameArm s.fstate (classify o s).2 (startOutputs (classify o s).2 (classify o s).1)

end Sys2Proof.Machine
end

