-- ==== Sys2Proof/Machine/PortOps.lean ====
section
/-!
DEFINITION. The meanings of the four transactions of the block's port (spec/42_port_operations.md R111 to R114),
and the hardware reset line (spec/70_reset_and_hazards.md R141).
-/

namespace Sys2Proof.Machine

/-- `OBS.H d` (R111). -/
def execObsH (d : Nat) (s : State) : Host.Outcome State Fault Refusal :=
  underConfig (parse ⟨.high, d⟩) s

/-- `OBS.L d` (R112). -/
def execObsL (d : Nat) (s : State) : Host.Outcome State Fault Refusal :=
  underConfig (parse ⟨.low, d⟩) s

/-- The frame-level `reset()` (41_frame_assembler.md R94). -/
def frameReset (s : State) : State := quietOutputs .pending (enterLeader s)

/-- `RESET` (R113). -/
def execReset (s : State) : Host.Outcome State Fault Refusal :=
  underConfig frameReset s

/-- `NOP` (R114): no register changes. -/
def execNop (s : State) : Host.Outcome State Fault Refusal :=
  underConfig (quietOutputs .pending) s

/-- A cycle with `rst` asserted: the reset state and the outputs of a reset step (R140, R141; log 12), at either
port (log 22). -/
def execHardReset (s : State) : Host.Outcome State Fault Refusal :=
  underConfig frameReset s

end Sys2Proof.Machine
end

