-- ==== Sys2Proof/Machine/Dispatch.lean ====
section
/-! DEFINITION. One arm for each transaction: its meaning. -/

namespace Sys2Proof.Machine

def exec (i : Instr) (s : State) : Host.Outcome State Fault Refusal :=
  match i with
  | .reset => Sys2Proof.Machine.execReset s
  | .obsH d => Sys2Proof.Machine.execObsH d s
  | .obsL d => Sys2Proof.Machine.execObsL d s
  | .nop => Sys2Proof.Machine.execNop s
  | .symReset => Sys2Proof.Machine.execSymReset s
  | .symClassifyH d => Sys2Proof.Machine.execSymClassifyH d s
  | .symClassifyL d => Sys2Proof.Machine.execSymClassifyL d s
  | .symNop => Sys2Proof.Machine.execSymNop s

end Sys2Proof.Machine
end

