-- ==== Sys2Proof/Decode.lean ====
section
/-!
DEFINITION. The transaction word and its two formats (spec/30_encoding.md R41, R51, R53, R56): reading a word,
writing one, and the opcode table of spec/opcode_table.json as rows of mask and pattern.
-/

namespace Sys2Proof

/-- Why a number is no transaction. Every value of `TW` is one (30_encoding.md R52), so the only reason is that
the number is not a value of `3 + DUR_W` bits. -/
inductive DecodeError where
  | notATransactionWord
  deriving DecidableEq, Repr

/-! ### Fields of the transaction word (R41) -/

/-- `TW[DUR_W+2]`: `srst`, or `sym_rst` at the classifier's port. -/
def twSrst (durW : Nat) (w : TxWord) : Bool := w.testBit (durW + 2)

/-- `TW[DUR_W+1]`: `valid`, or `cls_valid` at the classifier's port. -/
def twValid (durW : Nat) (w : TxWord) : Bool := w.testBit (durW + 1)

/-- `TW[DUR_W]`: `level`, 1 for `High` (R42). -/
def twLevel (durW : Nat) (w : TxWord) : Bool := w.testBit durW

/-- `TW[DUR_W-1:0]`: `duration` (R43). -/
def twDuration (durW : Nat) (w : TxWord) : Nat := w % 2 ^ durW

/-- The word `{srst, valid, level, duration}` (R41). -/
def mkTxWord (durW : Nat) (srst valid level : Bool) (duration : Nat) : TxWord :=
  srst.toNat * 2 ^ (durW + 2) + valid.toNat * 2 ^ (durW + 1) + level.toNat * 2 ^ durW + duration

/-- `TW` has `3 + DUR_W` bits (R41). -/
abbrev FitsTxWord (durW : Nat) (w : TxWord) : Prop := w < 2 ^ (durW + 3)

/-! ### Decoding -/

/-- The block's port: the opcode map of R51. -/
def decodeTop (srst valid level : Bool) (d : Nat) : Instr :=
  if srst then .reset
  else if valid then (if level then .obsH d else .obsL d)
  else .nop

/-- The classifier's own port: the opcode map of R53. `sym_rst` wins over an observation beside it (log 21). -/
def decodeSym (symRst clsValid level : Bool) (d : Nat) : Instr :=
  if symRst then .symReset
  else if clsValid then (if level then .symClassifyH d else .symClassifyL d)
  else .symNop

/-- Reads the transaction that word `w` presents at port `p`. Every value of `TW` has a meaning (R52); a number
that is no value of `TW` is rejected by name (log 10). -/
def decode (p : Port) (durW : Nat) (w : TxWord) : Except DecodeError Instr :=
  if FitsTxWord durW w then
    .ok (match p with
      | .top => decodeTop (twSrst durW w) (twValid durW w) (twLevel durW w) (twDuration durW w)
      | .sym => decodeSym (twSrst durW w) (twValid durW w) (twLevel durW w) (twDuration durW w))
  else .error .notATransactionWord

/-- The port a transaction belongs to (R51, R53). -/
def Instr.port : Instr → Port
  | .reset | .obsH _ | .obsL _ | .nop => .top
  | .symReset | .symClassifyH _ | .symClassifyL _ | .symNop => .sym

/-! ### Encoding -/

/-- The canonical word of a transaction (R54, R56; opcode_table.json, "canonical"): ignored bits are 0. -/
def encode (durW : Nat) : Instr → TxWord
  | .reset => mkTxWord durW true false false 0
  | .obsH d => mkTxWord durW false true true d
  | .obsL d => mkTxWord durW false true false d
  | .nop => mkTxWord durW false false false 0
  | .symReset => mkTxWord durW true false false 0
  | .symClassifyH d => mkTxWord durW false true true d
  | .symClassifyL d => mkTxWord durW false true false d
  | .symNop => mkTxWord durW false false false 0

/-- The transaction that carries an observation at the block's port (R51). -/
def obsInstr (o : Observation) : Instr :=
  match o.level with
  | .high => .obsH o.duration
  | .low => .obsL o.duration

/-- The transaction that carries an observation at the classifier's own port (R53). -/
def symInstr (o : Observation) : Instr :=
  match o.level with
  | .high => .symClassifyH o.duration
  | .low => .symClassifyL o.duration

/-! ### The opcode table -/

/-- The row's name in spec/opcode_table.json. -/
def Instr.mnemonic : Instr → String
  | .reset => "RESET"
  | .obsH _ => "OBS.H"
  | .obsL _ => "OBS.L"
  | .nop => "NOP"
  | .symReset => "SYM.RESET"
  | .symClassifyH _ => "SYM.CLASSIFY.H"
  | .symClassifyL _ => "SYM.CLASSIFY.L"
  | .symNop => "SYM.NOP"

/-- A row of spec/opcode_table.json: its format, its name, and the mask and pattern of its 35-bit word. -/
structure OpcodeRow where
  format : Port
  mnemonic : String
  pattern : Nat
  mask : Nat
  deriving DecidableEq, Repr

/-- Whether a word has a row's pattern under its mask. -/
def OpcodeRow.matchesWord (r : OpcodeRow) (w : TxWord) : Bool := w &&& r.mask == r.pattern

/-- spec/opcode_table.json, row by row, at its `DUR_W` of 32. -/
def opcodeTable : List OpcodeRow :=
  [ ⟨.top, "RESET", 0x400000000, 0x400000000⟩,
    ⟨.top, "OBS.H", 0x300000000, 0x700000000⟩,
    ⟨.top, "OBS.L", 0x200000000, 0x700000000⟩,
    ⟨.top, "NOP", 0x000000000, 0x600000000⟩,
    ⟨.sym, "SYM.RESET", 0x400000000, 0x400000000⟩,
    ⟨.sym, "SYM.CLASSIFY.H", 0x300000000, 0x700000000⟩,
    ⟨.sym, "SYM.CLASSIFY.L", 0x200000000, 0x700000000⟩,
    ⟨.sym, "SYM.NOP", 0x000000000, 0x600000000⟩ ]

/-- The host's reading of an opcode-table word: bit 0 is the least significant bit of `TW`, `DUR_W` is the
table's 32, and the word is presented at the block's port. The rows of format SYM have the same words as those
of format TOP and differ only in the port (R53), which a word does not say (log 4). -/
def decodeTableWord (nbits w : Nat) : Option Instr :=
  (decode .top 32 (w % 2 ^ nbits)).toOption

end Sys2Proof
end

