-- ==== Sys2Proof/Machine/Fetch.lean ====
section
/-!
DEFINITION. What the next clock cycle presents: the head of the input stream (spec/20_memory.md R31, R35), read
by the port it is presented at (spec/30_encoding.md R51, R53).
-/

namespace Sys2Proof.Machine

/-- What a cycle asks for: the hardware reset, one transaction, or nothing the block can be given. The state is
that with the cycle taken off the input. -/
inductive Fetched where
  | hardReset (s : State)
  | run (i : Instr) (s : State)
  | reject (r : Refusal)
  deriving DecidableEq, Repr

/-- The transaction of a cycle in which the caller makes no call (42_port_operations.md R114,
40_symbol_classifier.md R71). -/
def idleInstr : Port → Instr
  | .top => .nop
  | .sym => .symNop

/-- One cycle read at the port: `rst` wins over whatever is presented with it (60_exceptions.md R128, R141; log 12).
DESIGN CHOICE: it does so at the classifier's own port too, to which 30_encoding.md R53 gives no `rst`, and there
resets all six registers, the frame assembler's among them (log 22). -/
def fetchCycle (c : Cycle) (s : State) : Fetched :=
  if c.rst then .hardReset s
  else
    match decode s.port s.cfg.durW c.word with
    | .ok i => .run i s
    | .error .notATransactionWord => .reject (.notATransactionWord c.word)

/-- The next cycle. A refused configuration is refused before any step (60_exceptions.md R120); an exhausted
input stream is a cycle without a call (R114; log 2). -/
def fetch (s : State) : Fetched :=
  match configRefusal s.cfg with
  | some r => .reject r
  | .none =>
    match s.input with
    | [] => .run (idleInstr s.port) s
    | c :: rest => fetchCycle c { s with input := rest }

/-- A cycle with `rst` low that presents the word `w`. -/
def wordCycle (w : TxWord) : Cycle := ⟨false, w⟩

end Sys2Proof.Machine
end

