-- ==== Sys2Proof/Machine/Step.lean ====
section
/-!
DEFINITION. One step: the next cycle is fetched and its transaction run (spec/42_port_operations.md R110).
-/

namespace Sys2Proof.Machine

/-- One step of the instance (42_port_operations.md R110, 70_reset_and_hazards.md R151). -/
def step (s : State) : Host.Outcome State Fault Refusal :=
  match fetch s with
  | .hardReset s' => execHardReset s'
  | .run i s' => exec i s'
  | .reject r => .refused r

/-- The state whose next cycle presents, with `rst` low and at the block's port, the opcode-table word `w` of
`nbits` bits (its bit 0 the least significant bit of `TW`); it takes the place of the cycle that was next
(log 2). -/
def State.withFetchWord (s : State) (nbits w : Nat) : State :=
  { s with port := .top, input := wordCycle (w % 2 ^ nbits) :: s.input.tail }

end Sys2Proof.Machine
end

