-- ==== Sys2Proof/Machine/Outputs.lean ====
section
/-!
DEFINITION. The bit codes of the enumerations and the output word (spec/30_encoding.md R42, R44 to R49;
spec/60_exceptions.md R121). No rule reads a code: they say what the wires carry.
-/

namespace Sys2Proof.Machine

/-- `level`: `High = 1`, `Low = 0` (R42). -/
def levelCode : Level → BitVec 1
  | .high => 1#1
  | .low => 0#1

/-- `sstate` (R44). -/
def sstateCode : SState → BitVec 1
  | .waitHigh => 0#1
  | .waitLow => 1#1

/-- `fstate` (R45). -/
def fstateCode : FState → BitVec 2
  | .parsingLeader => 0#2
  | .parsingAddress => 1#2
  | .parsingCommand => 2#2

/-- The classifier result, also the `sym` output (R46). -/
def symCode : SymResult → BitVec 3
  | .pending => 0#3
  | .none => 1#3
  | .leader => 2#3
  | .data0 => 3#3
  | .data1 => 4#3

/-- `diag` (R47, 60_exceptions.md R121). -/
def eventCode : Event → BitVec 3
  | .noEvent => 0#3
  | .timingMismatch => 1#3
  | .sequenceViolation => 2#3
  | .addrCheckFail => 3#3
  | .cmdCheckFail => 4#3

/-- `cfg.ADDR_FAIL_POLICY` (R48). -/
def policyCode : AddrFailPolicy → BitVec 1
  | .restart => 0#1
  | .continueOn => 1#1

/-- The level a code stands for. -/
def levelOfCode (b : BitVec 1) : Level := if b = 1#1 then .high else .low

/-- The classifier state a code stands for; there is no unused code (R44). -/
def sstateOfCode (b : BitVec 1) : SState := if b = 1#1 then .waitLow else .waitHigh

/-- The frame state a code stands for; code 3 is reserved (R45). -/
def fstateOfCode (b : BitVec 2) : Option FState :=
  if b = 0#2 then some .parsingLeader
  else if b = 1#2 then some .parsingAddress
  else if b = 2#2 then some .parsingCommand
  else .none

/-- The classifier result a code stands for; codes 5 to 7 are reserved (R46). -/
def symOfCode (b : BitVec 3) : Option SymResult :=
  if b = 0#3 then some .pending
  else if b = 1#3 then some .none
  else if b = 2#3 then some .leader
  else if b = 3#3 then some .data0
  else if b = 4#3 then some .data1
  else .none

/-- The event a code stands for; codes 5 to 7 are reserved (R47). -/
def eventOfCode (b : BitVec 3) : Option Event :=
  if b = 0#3 then some .noEvent
  else if b = 1#3 then some .timingMismatch
  else if b = 2#3 then some .sequenceViolation
  else if b = 3#3 then some .addrCheckFail
  else if b = 4#3 then some .cmdCheckFail
  else .none

/-- `cmd_valid` (R40, R49). -/
def cmdValid (o : Output) : BitVec 1 := if o.cmd.isSome then 1#1 else 0#1

/-- `cmd_byte`, driven 0x00 when `cmd_valid = 0` (R40, R116). -/
def cmdByte (o : Output) : Byte := o.cmd.getD 0x00#8

/-- The output word `OW = {cmd_valid, cmd_byte, diag, sym}` (R49). -/
def outputWord (o : Output) : BitVec 15 :=
  cmdValid o ++ cmdByte o ++ eventCode o.diag ++ symCode o.sym

end Sys2Proof.Machine
end

