-- ==== Sys2Proof/Machine/Pseudo.lean ====
section
/-!
DEFINITION. The textual notation of a transaction list and its pseudo-operations (spec/30_encoding.md R54, R55):
names for lists of transactions, no part of the machine.
-/

namespace Sys2Proof.Machine

/-- `<dur>`: time-units, or `<n>T`, optionally followed by `+<k>` or `-<k>` time-units (R54). -/
inductive DurText where
  | ticks (n : Nat)
  | units (n : Nat)
  | unitsPlus (n k : Nat)
  | unitsMinus (n k : Nat)
  deriving DecidableEq, Repr

/-- The duration written; a text that comes out below 0 is no duration (log 20). -/
def durValue (c : Config) : DurText → Option Nat
  | .ticks n => some n
  | .units n => some (n * c.unitPeriod)
  | .unitsPlus n k => some (n * c.unitPeriod + k)
  | .unitsMinus n k => if k ≤ n * c.unitPeriod then some (n * c.unitPeriod - k) else .none

/-- One line of the notation (R54). -/
inductive TextLine where
  | h (dur : DurText)
  | l (dur : DurText)
  | reset
  | nop
  deriving DecidableEq, Repr

/-- The transaction a line stands for (R54). -/
def lineInstr (c : Config) : TextLine → Option Instr
  | .h dur => (durValue c dur).map .obsH
  | .l dur => (durValue c dur).map .obsL
  | .reset => some .reset
  | .nop => some .nop

/-- A high segment of `h` units followed by a low segment of `l` units. -/
def pairOps (c : Config) (h l : Nat) : List Instr :=
  [.obsH (h * c.unitPeriod), .obsL (l * c.unitPeriod)]

/-- `LEADER` (R55). -/
def leaderOps (c : Config) : List Instr := pairOps c c.leaderHigh c.leaderLow

/-- `BIT0`, `BIT1` (R55). -/
def bitOps (c : Config) (b : Bool) : List Instr :=
  if b then pairOps c c.data1High c.data1Low else pairOps c c.data0High c.data0Low

/-- `BYTE b`: eight bits, the least significant first (R55). -/
def byteOps (c : Config) (b : Byte) : List Instr :=
  (List.range 8).flatMap fun i => bitOps c (b.getLsbD i)

/-- `FRAME a0 a1 c0 c1` (R55). -/
def frameOps (c : Config) (a0 a1 c0 c1 : Byte) : List Instr :=
  leaderOps c ++ byteOps c a0 ++ byteOps c a1 ++ byteOps c c0 ++ byteOps c c1

/-- `NECFRAME b` (R55). -/
def necFrameOps (c : Config) (b : Byte) : List Instr :=
  frameOps c c.expAddrLow c.expAddrHigh b (~~~b)

/-- `IDLE d` (R55): a long idle reported as a low segment. -/
def idleOps (d : Nat) : List Instr := [.obsL d]

end Sys2Proof.Machine
end

