-- ==== Sys2Proof/Machine/Run.lean ====
section
/-!
DEFINITION. Runs and traces (spec/00_scope.md section 5.3; spec/42_port_operations.md R110;
spec/70_reset_and_hazards.md R150), and several instances (spec/60_exceptions.md R133).
-/

namespace Sys2Proof.Machine

/-- `k` steps with the outputs of each, in order; no result where a step is refused. -/
def trace : Nat → State → Option (List Output × State)
  | 0, s => some ([], s)
  | k + 1, s =>
    match step s with
    | .next t => (trace k t).map fun r => (t.out :: r.1, r.2)
    | .fault _ => .none
    | .refused _ => .none

/-- The cycles that present a list of transactions, one a cycle, in their canonical words. -/
def presentAll (durW : Nat) (is : List Instr) : List Cycle :=
  is.map fun i => wordCycle (encode durW i)

/-- The command bytes of a trace, in order (20_memory.md R32). -/
def emittedBytes (os : List Output) : List Byte := os.filterMap Output.cmd

/-- One step of the `k`-th of several independent instances (60_exceptions.md R133; log 15). -/
def stepInstance (k : Nat) (is : List State) : Option (Host.Outcome (List State) Fault Refusal) :=
  is[k]?.map fun s =>
    match step s with
    | .next t => .next (is.set k t)
    | .fault f => .fault f
    | .refused r => .refused r

end Sys2Proof.Machine
end

