-- ==== Sys2Proof/Safety.lean ====
section
/-!
DEFINITION. What holds between steps (spec/10_state.md R17), when an input stream is one the block can be given,
and the terms in which the statements speak of frames (spec/41_frame_assembler.md R97).
-/

namespace Sys2Proof.Machine

/-- The invariants of 10_state.md R17, (a) to (f) and (h); (g) holds by the type of `fstate`. -/
structure State.Inv (s : State) : Prop where
  /-- The configuration is one the block is run with (R29). -/
  admitted : s.cfg.Admitted
  /-- R17 (a). -/
  leaderClear : s.fstate = .parsingLeader → s.address = 0#16 ∧ s.command = 0#16 ∧ s.bitIndex = 0#5
  /-- R17 (b). -/
  indexBound : s.bitIndex.toNat ≤ 15
  /-- R17 (c). -/
  addressPartial : s.fstate = .parsingAddress → s.command = 0#16 ∧ s.address >>> s.bitIndex.toNat = 0#16
  /-- R17 (d). -/
  commandPartial : s.fstate = .parsingCommand → s.command >>> s.bitIndex.toNat = 0#16
  /-- R17 (e). -/
  memoClear : s.sstate = .waitHigh → s.pendingHigh = 0
  /-- R17 (f). -/
  memoProfile : s.sstate = .waitLow →
    s.pendingHigh = s.cfg.leaderHigh ∨ s.pendingHigh = s.cfg.data0High ∨ s.pendingHigh = s.cfg.data1High
  /-- R17 (h). -/
  addressChecked : s.cfg.addrFailPolicy = .restart → s.fstate = .parsingCommand →
    lowByte s.address = s.cfg.expAddrLow ∧ highByte s.address = s.cfg.expAddrHigh

/-- Every cycle to come either asserts `rst` or presents a value of `TW`. -/
abbrev State.InputFits (s : State) : Prop :=
  ∀ c ∈ s.input, c.rst = true ∨ FitsTxWord s.cfg.durW c.word

/-- The four registers of the frame assembler are the same (10_state.md R16). -/
abbrev SameFrameRegisters (s t : State) : Prop :=
  t.fstate = s.fstate ∧ t.address = s.address ∧ t.command = s.command ∧ t.bitIndex = s.bitIndex

/-- The two registers of the classifier are the same (10_state.md R16). -/
abbrev SameClassifierRegisters (s t : State) : Prop :=
  t.sstate = s.sstate ∧ t.pendingHigh = s.pendingHigh

/-- What is no register of the block is the same: the configuration, the port and the input to come. -/
abbrev SameSurroundings (s t : State) : Prop :=
  t.cfg = s.cfg ∧ t.port = s.port ∧ t.input = s.input

/-- The result that carries a data bit (41_frame_assembler.md R85). -/
def dataSymbol (b : Bool) : SymResult := if b then .data1 else .data0

/-- `g` is the field `f` with bit `i` set to `b` and every other bit as it was (41_frame_assembler.md R85). -/
abbrev StoredAt (f : Field) (i : Nat) (b : Bool) (g : Field) : Prop :=
  ∀ j < 16, g.getLsbD j = if j = i then b else f.getLsbD j

/-- The count is one of the three profile high counts (40_symbol_classifier.md R63). -/
abbrev IsProfileHigh (c : Config) (pc : Nat) : Prop :=
  pc = c.leaderHigh ∨ pc = c.data0High ∨ pc = c.data1High

/-- A high and a low duration that the timing comparator takes for the given pair of counts
(40_symbol_classifier.md R62). -/
abbrev PairRoundsTo (c : Config) (h l : Nat) (p : Nat × Nat) : Prop :=
  pulseCount c p.1 = h ∧ pulseCount c p.2 = l

/-- The pair of durations carries the leader. -/
abbrev CarriesLeader (c : Config) (p : Nat × Nat) : Prop := PairRoundsTo c c.leaderHigh c.leaderLow p

/-- The pair of durations carries the data bit `b`. -/
abbrev CarriesBit (c : Config) (b : Bool) (p : Nat × Nat) : Prop :=
  if b then PairRoundsTo c c.data1High c.data1Low p else PairRoundsTo c c.data0High c.data0Low p

/-- The three profiles are pairwise different as pairs of counts (41_frame_assembler.md R97 (c)). -/
abbrev ProfilesDistinct (c : Config) : Prop :=
  (c.leaderHigh, c.leaderLow) ≠ (c.data0High, c.data0Low) ∧
  (c.leaderHigh, c.leaderLow) ≠ (c.data1High, c.data1Low) ∧
  (c.data0High, c.data0Low) ≠ (c.data1High, c.data1Low)

/-- The observations of a list of pairs: each a high segment, then a low segment. -/
def pairObservations (ps : List (Nat × Nat)) : List Instr :=
  ps.flatMap fun p => [.obsH p.1, .obsL p.2]

/-- The sixteen bits of two bytes in the order received, the low byte first, each byte least significant bit
first (20_memory.md R33). -/
def fieldBits (lo hi : Byte) : List Bool :=
  (List.range 8).map lo.getLsbD ++ (List.range 8).map hi.getLsbD

/-- The 33 pairs of durations carry a leader and then the four bytes `a0 a1 c0 c1`, each duration anywhere in the
interval that rounds to its count. -/
abbrev CarriesFrame (c : Config) (a0 a1 c0 c1 : Byte) (ps : List (Nat × Nat)) : Prop :=
  ∃ p qs, ps = p :: qs ∧ CarriesLeader c p ∧
    List.Forall₂ (CarriesBit c) (fieldBits a0 a1 ++ fieldBits c0 c1) qs

end Sys2Proof.Machine
end

