-- ==== Sys2Proof/Certificates/Slice0/Obligations.lean ====
section
/-!
DEFINITION. The statements for the provers, each with the rule of spec/ it formalises or rests on. Statements
speak of every configuration the block is run with (`Config.Admitted`), not of the default one, unless they say
so. A clause that rests on a choice of the model names its log entry.
-/

open Sys2Proof Sys2Proof.Machine

/-! ### Encoding -/

/-- spec/30_encoding.md R41, R51, R53, R56: at every duration width, the canonical word of a well-formed
transaction decodes, at the port the transaction belongs to, to that transaction with its duration. -/
def Obligations.DecodeOfEncodeIsTheTransaction : Prop :=
  ∀ (durW : Nat) (i : Instr), i.wellFormed durW = true → decode i.port durW (encode durW i) = .ok i

/-- spec/opcode_table.json, 30_encoding.md R51, R53: at the table's width every transaction word decodes, at each
port, to a transaction of the one row of that port's format whose mask and pattern the word has. -/
def Obligations.DecodedRowIsTheMatchingTableRow : Prop :=
  ∀ (p : Port) (w : TxWord), FitsTxWord 32 w →
    ∃ i, decode p 32 w = .ok i ∧
      ∀ r ∈ opcodeTable, r.format = p → (r.matchesWord w = true ↔ r.mnemonic = i.mnemonic)

/-- spec/30_encoding.md R52: every value of `3 + DUR_W` bits decodes to a well-formed transaction of its port. A
number that is no such value is rejected by name (log 10). -/
def Obligations.EveryTransactionWordDecodes : Prop :=
  ∀ (p : Port) (durW : Nat) (w : TxWord),
    (w < 2 ^ (3 + durW) → ∃ i, decode p durW w = .ok i ∧ i.port = p ∧ i.wellFormed durW = true) ∧
    (¬ w < 2 ^ (3 + durW) → decode p durW w = .error .notATransactionWord)

/-- spec/30_encoding.md R41, R51, R52, R53: the three control bits select the transaction, and what they do not
select by is ignored. -/
def Obligations.ControlBitsSelectTheTransaction : Prop :=
  ∀ (durW : Nat) (srst valid level : Bool) (d : Nat), d < 2 ^ durW →
    let w := srst.toNat * 2 ^ (durW + 2) + valid.toNat * 2 ^ (durW + 1) + level.toNat * 2 ^ durW + d
    (srst = true → decode .top durW w = .ok .reset ∧ decode .sym durW w = .ok .symReset) ∧
    (srst = false → valid = true → level = true →
      decode .top durW w = .ok (.obsH d) ∧ decode .sym durW w = .ok (.symClassifyH d)) ∧
    (srst = false → valid = true → level = false →
      decode .top durW w = .ok (.obsL d) ∧ decode .sym durW w = .ok (.symClassifyL d)) ∧
    (srst = false → valid = false → decode .top durW w = .ok .nop ∧ decode .sym durW w = .ok .symNop)

/-- spec/30_encoding.md R56, spec/95_test_vectors.md V-T: sample words at the default width, written out from the
spec's table, decode to the transactions they stand for. -/
def Obligations.SampleWordsDecodeAsTheSpecLists : Prop :=
  decode .top 32 0x300002300 = .ok (.obsH 8960) ∧ decode .top 32 0x200001180 = .ok (.obsL 4480) ∧
  decode .top 32 0x200009C40 = .ok (.obsL 40000) ∧ decode .top 32 0x400000000 = .ok .reset ∧
  decode .top 32 0x700002300 = .ok .reset ∧ decode .top 32 0x100002300 = .ok .nop ∧
  decode .top 32 0x0FFFFFFFF = .ok .nop ∧ decode .top 32 0x3FFFFFFFF = .ok (.obsH 4294967295) ∧
  decode .sym 32 0x300000230 = .ok (.symClassifyH 560) ∧ decode .sym 32 0x200000690 = .ok (.symClassifyL 1680) ∧
  decode .sym 32 0x400000000 = .ok .symReset ∧ decode .sym 32 0x000000000 = .ok .symNop

/-- spec/30_encoding.md R42, R44 to R48, spec/60_exceptions.md R121 (the spec's decision D12): the codes of the
enumerations, and that the codes the spec reserves stand for nothing. -/
def Obligations.EnumerationCodesAreTheSpecs : Prop :=
  levelCode .high = 1#1 ∧ levelCode .low = 0#1 ∧ (∀ l, levelOfCode (levelCode l) = l) ∧
  sstateCode .waitHigh = 0#1 ∧ sstateCode .waitLow = 1#1 ∧ (∀ x, sstateOfCode (sstateCode x) = x) ∧
  fstateCode .parsingLeader = 0#2 ∧ fstateCode .parsingAddress = 1#2 ∧ fstateCode .parsingCommand = 2#2 ∧
  (∀ x, fstateOfCode (fstateCode x) = some x) ∧ fstateOfCode 3#2 = none ∧
  symCode .pending = 0#3 ∧ symCode .none = 1#3 ∧ symCode .leader = 2#3 ∧ symCode .data0 = 3#3 ∧
  symCode .data1 = 4#3 ∧ (∀ x, symOfCode (symCode x) = some x) ∧
  symOfCode 5#3 = none ∧ symOfCode 6#3 = none ∧ symOfCode 7#3 = none ∧
  eventCode .noEvent = 0#3 ∧ eventCode .timingMismatch = 1#3 ∧ eventCode .sequenceViolation = 2#3 ∧
  eventCode .addrCheckFail = 3#3 ∧ eventCode .cmdCheckFail = 4#3 ∧ (∀ x, eventOfCode (eventCode x) = some x) ∧
  eventOfCode 5#3 = none ∧ eventOfCode 6#3 = none ∧ eventOfCode 7#3 = none ∧
  policyCode .restart = 0#1 ∧ policyCode .continueOn = 1#1

/-- spec/30_encoding.md R49, spec/42_port_operations.md R116 (the spec's decision D4): where each output stands in
the output word, and that `cmd_byte` is 0x00 when there is no byte. -/
def Obligations.OutputWordHoldsEachOutput : Prop :=
  ∀ o : Output,
    (outputWord o).getLsbD 14 = o.cmd.isSome ∧
    (outputWord o).extractLsb' 6 8 = o.cmd.getD 0x00#8 ∧
    (outputWord o).extractLsb' 3 3 = eventCode o.diag ∧
    (outputWord o).extractLsb' 0 3 = symCode o.sym

/-! ### The timing comparator -/

/-- spec/40_symbol_classifier.md R61 (the spec's decision D8 gives the integer form): the pulse count is the
document's formula over the rationals, `floor(raw_duration / unit_period + 1/2)`. -/
def Obligations.PulseCountIsRoundToNearest : Prop :=
  ∀ (c : Config) (d : Nat), 1 ≤ c.unitPeriod →
    (pulseCount c d : Int) = ⌊(d : Rat) / (c.unitPeriod : Rat) + 1 / 2⌋

/-- spec/40_symbol_classifier.md R62 (a) to (f) (which the spec derives from R61): the interval that rounds to a
count, monotony, zero, exact multiples, both half boundaries for even and odd units, and the unit of 1. -/
def Obligations.PulseCountLaws : Prop :=
  ∀ c : Config, 1 ≤ c.unitPeriod →
    (∀ d n, pulseCount c d = n ↔
      2 * n * c.unitPeriod ≤ 2 * d + c.unitPeriod ∧ 2 * d < 2 * n * c.unitPeriod + c.unitPeriod) ∧
    (∀ d e, d ≤ e → pulseCount c d ≤ pulseCount c e) ∧
    (∀ d, 2 * d < c.unitPeriod → pulseCount c d = 0) ∧
    (∀ n, pulseCount c (n * c.unitPeriod) = n) ∧
    (∀ n h, c.unitPeriod = 2 * h →
      pulseCount c (n * c.unitPeriod + h) = n + 1 ∧ pulseCount c (n * c.unitPeriod + h - 1) = n) ∧
    (∀ n h, c.unitPeriod = 2 * h + 1 →
      pulseCount c (n * c.unitPeriod + (h + 1)) = n + 1 ∧ pulseCount c (n * c.unitPeriod + h) = n) ∧
    (c.unitPeriod = 1 → ∀ d, pulseCount c d = d)

/-- spec/40_symbol_classifier.md R61 (the spec's decision D7), R66, R68 (c): the intermediate sum fits `DUR_W + 2`
bits, the count is at most 2^DUR_W, and a count that does not fit `PC_W` bits matches no profile: a high segment of
such a count is `None` in `WaitHigh`, and a low segment of such a count, a long idle, is `None` in `WaitLow`. -/
def Obligations.LongDurationsNeverAlias : Prop :=
  ∀ (s : State) (d : Nat), s.cfg.Admitted → d < 2 ^ s.cfg.durW →
    2 * d + s.cfg.unitPeriod < 2 ^ (s.cfg.durW + 2) ∧ pulseCount s.cfg d ≤ 2 ^ s.cfg.durW ∧
    (s.sstate = .waitHigh → 2 ^ s.cfg.pcW ≤ pulseCount s.cfg d →
      ∃ t, exec (.obsH d) s = .next t ∧ t.out.sym = .none ∧ t.sstate = .waitHigh ∧ t.pendingHigh = 0) ∧
    (s.sstate = .waitLow → 2 ^ s.cfg.pcW ≤ pulseCount s.cfg d →
      ∃ t, exec (.obsL d) s = .next t ∧ t.out.sym = .none ∧ t.sstate = .waitHigh ∧ t.pendingHigh = 0)

/-! ### The symbol classifier, in the block and alone -/

/-- spec/40_symbol_classifier.md R65: in `WaitHigh` an `OBS.H` whose count is one of the three profile high counts
is remembered, the classifier waits for the low segment, and no symbol is emitted; a count that equals two
profiles at once is accepted once, the same way. That nothing else changes, no byte is emitted and no event
reported, is spec/41_frame_assembler.md R93, the spec's decision D1 (log 19). -/
def Obligations.QualifyingHighIsRemembered : Prop :=
  ∀ (s : State) (d : Nat), s.cfg.Admitted → s.sstate = .waitHigh →
    IsProfileHigh s.cfg (pulseCount s.cfg d) →
    exec (.obsH d) s = .next { s with
      pendingHigh := pulseCount s.cfg d
      sstate := .waitLow
      out := ⟨none, .noEvent, .pending⟩ }

/-- spec/40_symbol_classifier.md R66: in `WaitHigh` a low observation, whatever its duration, and a high
observation whose count matches no profile high count give `None` and leave the classifier in `WaitHigh` with the
memo cleared. The frame layer takes it as an invalid symbol: it is then seeking a leader. -/
def Obligations.WaitHighRejectsAnythingElse : Prop :=
  ∀ (s : State) (o : Observation), s.cfg.Admitted → s.sstate = .waitHigh →
    (o.level = .low ∨ ¬ IsProfileHigh s.cfg (pulseCount s.cfg o.duration)) →
    ∃ t, exec (obsInstr o) s = .next t ∧ t.sstate = .waitHigh ∧ t.pendingHigh = 0 ∧ t.out.sym = .none ∧
      t.fstate = .parsingLeader

/-- spec/40_symbol_classifier.md R67 (with the spec's decision D23 that the observation is not tried again): a high
observation in `WaitLow`, whatever its duration, gives `None`, and the classifier is back in `WaitHigh` with the
memo cleared. -/
def Obligations.HighInWaitLowAborts : Prop :=
  ∀ (s : State) (d : Nat), s.cfg.Admitted → s.sstate = .waitLow →
    ∃ t, exec (.obsH d) s = .next t ∧ t.sstate = .waitHigh ∧ t.pendingHigh = 0 ∧ t.out.sym = .none

/-- spec/40_symbol_classifier.md R63, R68: a low observation in `WaitLow` is classified with the remembered count
against the profiles in the order leader, data0, data1, the first exact match winning, and `None` where none
matches; the classifier is back in `WaitHigh` with the memo cleared, whatever the result. -/
def Obligations.LowInWaitLowClassifiesThePair : Prop :=
  ∀ (s : State) (d : Nat), s.cfg.Admitted → s.sstate = .waitLow →
    let pc := pulseCount s.cfg d
    let isLeader := s.pendingHigh = s.cfg.leaderHigh ∧ pc = s.cfg.leaderLow
    let isData0 := s.pendingHigh = s.cfg.data0High ∧ pc = s.cfg.data0Low
    let isData1 := s.pendingHigh = s.cfg.data1High ∧ pc = s.cfg.data1Low
    ∃ t, exec (.obsL d) s = .next t ∧ t.sstate = .waitHigh ∧ t.pendingHigh = 0 ∧
      (isLeader → t.out.sym = .leader) ∧
      (¬ isLeader → isData0 → t.out.sym = .data0) ∧
      (¬ isLeader → ¬ isData0 → isData1 → t.out.sym = .data1) ∧
      (¬ isLeader → ¬ isData0 → ¬ isData1 → t.out.sym = .none)

/-- spec/40_symbol_classifier.md R64 to R68, R72, spec/30_encoding.md R53: what one classification at the
classifier's own port does, for both levels and both states of the classifier: the next state, whole. That the
block's outputs `cmd` and `diag` stay silent at this port is the model's choice (log 6). -/
def Obligations.ClassifierPortTransitions : Prop :=
  ∀ (s : State) (d : Nat), s.cfg.Admitted →
    let pc := pulseCount s.cfg d
    let done := fun r : SymResult =>
      { s with sstate := .waitHigh, pendingHigh := 0, out := ⟨none, .noEvent, r⟩ }
    (s.sstate = .waitHigh → IsProfileHigh s.cfg pc →
      exec (.symClassifyH d) s =
        .next { s with sstate := .waitLow, pendingHigh := pc, out := ⟨none, .noEvent, .pending⟩ }) ∧
    (s.sstate = .waitHigh → ¬ IsProfileHigh s.cfg pc → exec (.symClassifyH d) s = .next (done .none)) ∧
    (s.sstate = .waitHigh → exec (.symClassifyL d) s = .next (done .none)) ∧
    (s.sstate = .waitLow → exec (.symClassifyH d) s = .next (done .none)) ∧
    (s.sstate = .waitLow → exec (.symClassifyL d) s = .next (done
      (if s.pendingHigh = s.cfg.leaderHigh ∧ pc = s.cfg.leaderLow then .leader
       else if s.pendingHigh = s.cfg.data0High ∧ pc = s.cfg.data0Low then .data0
       else if s.pendingHigh = s.cfg.data1High ∧ pc = s.cfg.data1Low then .data1
       else .none)))

/-- spec/40_symbol_classifier.md R70: `SYM.RESET` returns to `WaitHigh` and clears the memo from any state, twice is
as once, and a low segment that follows a forgotten high segment gives `None`. That the result wire reads
`Pending` in that step is the model's reading (log 6). -/
def Obligations.SymResetForgetsThePendingHigh : Prop :=
  ∀ s : State, s.cfg.Admitted →
    let t := { s with sstate := .waitHigh, pendingHigh := 0, out := ⟨none, .noEvent, .pending⟩ }
    exec .symReset s = .next t ∧ exec .symReset t = .next t ∧
    ∀ d, ∃ u, exec (.symClassifyL d) t = .next u ∧ u.out.sym = .none ∧ u.sstate = .waitHigh

/-- spec/40_symbol_classifier.md R71 (the spec's decision D4; `cmd` and `diag` silent: log 6): `SYM.NOP` changes no
register and its result wire reads `Pending`. -/
def Obligations.SymNopChangesNoRegister : Prop :=
  ∀ s : State, s.cfg.Admitted → exec .symNop s = .next { s with out := ⟨none, .noEvent, .pending⟩ }

/-- spec/30_encoding.md R53, spec/40_symbol_classifier.md R60: the frame of the four transactions at the
classifier's port: no register of the frame assembler changes, nor the configuration, the port or the input. -/
def Obligations.ClassifierPortLeavesTheFrameAssembler : Prop :=
  ∀ (s t : State) (i : Instr), i.port = .sym → exec i s = .next t →
    SameFrameRegisters s t ∧ SameSurroundings s t

/-- spec/30_encoding.md R53, spec/41_frame_assembler.md R80, R81, spec/40_symbol_classifier.md R73 (a): the
classifier inside the block is the classifier alone: for the same observation both leave the same classifier
registers and show the same result, although the block may reset the classifier in the same step. -/
def Obligations.ClassifierInTheBlockIsTheClassifierAlone : Prop :=
  ∀ (s t u : State) (o : Observation), exec (obsInstr o) s = .next t → exec (symInstr o) s = .next u →
    SameClassifierRegisters u t ∧ t.out.sym = u.out.sym

/-- spec/40_symbol_classifier.md R73 (b), (c): after an accepted high segment the classifier is in `WaitLow`, and
the next observation is never accepted as a high segment too. -/
def Obligations.TwoHighsAreNeverBothAccepted : Prop :=
  ∀ (s t u : State) (o o' : Observation), exec (obsInstr o) s = .next t → exec (obsInstr o') t = .next u →
    (t.out.sym = .pending ↔ t.sstate = .waitLow) ∧ (t.out.sym = .pending → u.out.sym ≠ .pending)

/-! ### The frame assembler -/

/-- spec/41_frame_assembler.md R84: in `ParsingLeader` a `Leader` starts the address field, and any other result
leaves every register of the frame assembler as it is; no byte is emitted, and `diag` is `TimingMismatch` exactly
for `None`. The whole next state is said. -/
def Obligations.ParsingLeaderWaitsForALeader : Prop :=
  ∀ (s : State) (o : Observation), s.cfg.Admitted → s.fstate = .parsingLeader →
    ((classify o s).2 = .leader →
      exec (obsInstr o) s = .next { s with
        sstate := .waitHigh
        pendingHigh := 0
        fstate := .parsingAddress
        address := 0#16
        bitIndex := 0#5
        out := ⟨none, .noEvent, .leader⟩ }) ∧
    ((classify o s).2 ≠ .leader →
      ∃ t, exec (obsInstr o) s = .next t ∧ SameFrameRegisters s t ∧ SameSurroundings s t ∧
        SameClassifierRegisters (classify o s).1 t ∧
        t.out = ⟨none, if (classify o s).2 = .none then .timingMismatch else .noEvent, (classify o s).2⟩)

/-- spec/41_frame_assembler.md R85, R86, R89: a data symbol that does not fill the field writes its bit at the
running index of the field being accumulated, changes no other bit of it, and advances the index by 1; the other
field, the state, and everything else but the classifier and the outputs are unchanged. -/
def Obligations.DataSymbolStoresOneBit : Prop :=
  ∀ (s : State) (o : Observation) (b : Bool), s.cfg.Admitted → (classify o s).2 = dataSymbol b →
    s.bitIndex.toNat < 15 →
    (s.fstate = .parsingAddress →
      ∃ t, exec (obsInstr o) s = .next t ∧ StoredAt s.address s.bitIndex.toNat b t.address ∧
        t.command = s.command ∧ t.bitIndex.toNat = s.bitIndex.toNat + 1 ∧ t.fstate = .parsingAddress ∧
        t.sstate = .waitHigh ∧ t.pendingHigh = 0 ∧ SameSurroundings s t ∧
        t.out = ⟨none, .noEvent, dataSymbol b⟩) ∧
    (s.fstate = .parsingCommand →
      ∃ t, exec (obsInstr o) s = .next t ∧ StoredAt s.command s.bitIndex.toNat b t.command ∧
        t.address = s.address ∧ t.bitIndex.toNat = s.bitIndex.toNat + 1 ∧ t.fstate = .parsingCommand ∧
        t.sstate = .waitHigh ∧ t.pendingHigh = 0 ∧ SameSurroundings s t ∧
        t.out = ⟨none, .noEvent, dataSymbol b⟩)

/-- spec/41_frame_assembler.md R87: the step that stores address bit 15 checks both bytes against the configured
ones. Where both are equal, the command field begins in the same step with the address kept; where one is not,
`AddrCheckFail` is reported. No byte is emitted in either outcome. -/
def Obligations.FullAddressIsValidatedInTheSameStep : Prop :=
  ∀ (s : State) (o : Observation) (b : Bool) (f : Field), s.cfg.Admitted → (classify o s).2 = dataSymbol b →
    s.fstate = .parsingAddress → s.bitIndex = 15#5 → StoredAt s.address 15 b f →
    let lo := f.extractLsb' 0 8
    let hi := f.extractLsb' 8 8
    (lo = s.cfg.expAddrLow ∧ hi = s.cfg.expAddrHigh →
      exec (obsInstr o) s = .next { s with
        sstate := .waitHigh
        pendingHigh := 0
        fstate := .parsingCommand
        address := f
        command := 0#16
        bitIndex := 0#5
        out := ⟨none, .noEvent, dataSymbol b⟩ }) ∧
    (¬ (lo = s.cfg.expAddrLow ∧ hi = s.cfg.expAddrHigh) →
      ∃ t, exec (obsInstr o) s = .next t ∧ t.out = ⟨none, .addrCheckFail, dataSymbol b⟩)

/-- spec/41_frame_assembler.md R88: an address that fails its check is reported under both policies; `Restart`
returns to the reset state, `Continue` begins the command field with the non-matching address kept. -/
def Obligations.AddressFailureFollowsThePolicy : Prop :=
  ∀ (s : State) (o : Observation) (b : Bool) (f : Field), s.cfg.Admitted → (classify o s).2 = dataSymbol b →
    s.fstate = .parsingAddress → s.bitIndex = 15#5 → StoredAt s.address 15 b f →
    ¬ (f.extractLsb' 0 8 = s.cfg.expAddrLow ∧ f.extractLsb' 8 8 = s.cfg.expAddrHigh) →
    (s.cfg.addrFailPolicy = .restart →
      exec (obsInstr o) s = .next { s with
        sstate := .waitHigh
        pendingHigh := 0
        fstate := .parsingLeader
        address := 0#16
        command := 0#16
        bitIndex := 0#5
        out := ⟨none, .addrCheckFail, dataSymbol b⟩ }) ∧
    (s.cfg.addrFailPolicy = .continueOn →
      exec (obsInstr o) s = .next { s with
        sstate := .waitHigh
        pendingHigh := 0
        fstate := .parsingCommand
        address := f
        command := 0#16
        bitIndex := 0#5
        out := ⟨none, .addrCheckFail, dataSymbol b⟩ })

/-- spec/41_frame_assembler.md R90, R91: the step that stores command bit 15 emits the low byte exactly as it stood
before the full reset, when it is the complement of the high byte; the state becomes the reset state. -/
def Obligations.ComplementPairEmitsItsLowByte : Prop :=
  ∀ (s : State) (o : Observation) (b : Bool) (f : Field), s.cfg.Admitted → (classify o s).2 = dataSymbol b →
    s.fstate = .parsingCommand → s.bitIndex = 15#5 → StoredAt s.command 15 b f →
    f.extractLsb' 0 8 = ~~~(f.extractLsb' 8 8) →
    exec (obsInstr o) s = .next { s with
      sstate := .waitHigh
      pendingHigh := 0
      fstate := .parsingLeader
      address := 0#16
      command := 0#16
      bitIndex := 0#5
      out := ⟨some (f.extractLsb' 0 8), .noEvent, dataSymbol b⟩ }

/-- spec/41_frame_assembler.md R92: a command whose low byte is not the complement of its high byte emits nothing,
reports `CmdCheckFail`, and ends in the reset state; a pair of equal bytes is always such a command. -/
def Obligations.OtherCommandPairsEmitNothing : Prop :=
  ∀ (s : State) (o : Observation) (b : Bool) (f : Field), s.cfg.Admitted → (classify o s).2 = dataSymbol b →
    s.fstate = .parsingCommand → s.bitIndex = 15#5 → StoredAt s.command 15 b f →
    f.extractLsb' 0 8 ≠ ~~~(f.extractLsb' 8 8) ∨ f.extractLsb' 0 8 = f.extractLsb' 8 8 →
    exec (obsInstr o) s = .next { s with
      sstate := .waitHigh
      pendingHigh := 0
      fstate := .parsingLeader
      address := 0#16
      command := 0#16
      bitIndex := 0#5
      out := ⟨none, .cmdCheckFail, dataSymbol b⟩ }

/-- spec/41_frame_assembler.md R90, R98: four forms of the command check agree, and the fields that pass are
exactly those put together from a byte and its complement, one for each byte. The bitwise-AND test is weaker: every
field that passes this check passes it, and the field 0x0000 passes it and fails this check. -/
def Obligations.CommandCheckIsComplementEquality : Prop :=
  ∀ f : Field,
    let lo := f.extractLsb' 0 8
    let hi := f.extractLsb' 8 8
    (commandValid f = true ↔ lo = ~~~hi) ∧
    (commandValid f = true ↔ lo ^^^ hi = 0xFF#8) ∧
    (commandValid f = true ↔ lo.toNat + hi.toNat = 255) ∧
    (commandValid f = true ↔ ∀ i < 8, f.getLsbD i ≠ f.getLsbD (i + 8)) ∧
    (commandValid f = true ↔ ∃ x : Byte, f = ~~~x ++ x) ∧
    (commandValid f = true → lo &&& hi = 0#8) ∧
    ((0x0000#16).extractLsb' 0 8 &&& (0x0000#16).extractLsb' 8 8 = 0#8 ∧ commandValid 0x0000#16 = false)

/-- spec/41_frame_assembler.md R86, R89, spec/60_exceptions.md R122, R123, R129: in the middle of a field a `Leader`
and a `None` each end in the reset state, whatever had been accumulated; the first is a `SequenceViolation`, the
second a `TimingMismatch`, and no byte is emitted. -/
def Obligations.InvalidSymbolInAFieldRestarts : Prop :=
  ∀ (s : State) (o : Observation) (e : Event), s.cfg.Admitted → s.fstate ≠ .parsingLeader →
    ((classify o s).2 = .leader ∧ e = .sequenceViolation ∨ (classify o s).2 = .none ∧ e = .timingMismatch) →
    exec (obsInstr o) s = .next { s with
      sstate := .waitHigh
      pendingHigh := 0
      fstate := .parsingLeader
      address := 0#16
      command := 0#16
      bitIndex := 0#5
      out := ⟨none, e, (classify o s).2⟩ }

/-- spec/60_exceptions.md R122: the four causes of `TimingMismatch`, exhaustively, and its handling: the result is
`None`, the classifier is in `WaitHigh` with the memo cleared, no byte is emitted; in `ParsingLeader` the frame
assembler ignores it, in a field it performs the full reset. -/
def Obligations.TimingMismatchHasFourCauses : Prop :=
  ∀ (s t : State) (o : Observation), exec (obsInstr o) s = .next t →
    let pc := pulseCount s.cfg o.duration
    let noProfile :=
      ¬ (s.pendingHigh = s.cfg.leaderHigh ∧ pc = s.cfg.leaderLow) ∧
      ¬ (s.pendingHigh = s.cfg.data0High ∧ pc = s.cfg.data0Low) ∧
      ¬ (s.pendingHigh = s.cfg.data1High ∧ pc = s.cfg.data1Low)
    (t.out.diag = .timingMismatch ↔
      (s.sstate = .waitHigh ∧ o.level = .high ∧ ¬ IsProfileHigh s.cfg pc) ∨
      (s.sstate = .waitHigh ∧ o.level = .low) ∨
      (s.sstate = .waitLow ∧ o.level = .high) ∨
      (s.sstate = .waitLow ∧ o.level = .low ∧ noProfile)) ∧
    (t.out.diag = .timingMismatch →
      t.out.sym = .none ∧ t.out.cmd = none ∧ t.sstate = .waitHigh ∧ t.pendingHigh = 0 ∧
      (s.fstate = .parsingLeader → SameFrameRegisters s t) ∧ (s.fstate ≠ .parsingLeader → t.RegistersReset))

/-- spec/60_exceptions.md R123: a `Leader` is a violation, handled by a full reset, in `ParsingAddress` and in
`ParsingCommand` only; `Data0` and `Data1` in `ParsingLeader` raise nothing and change no register of the frame
assembler. -/
def Obligations.OnlyALeaderInAFieldIsASequenceViolation : Prop :=
  ∀ (s : State) (o : Observation), s.cfg.Admitted →
    ((s.fstate = .parsingAddress ∨ s.fstate = .parsingCommand) → (classify o s).2 = .leader →
      ∃ t, exec (obsInstr o) s = .next t ∧ t.out = ⟨none, .sequenceViolation, .leader⟩ ∧ t.RegistersReset) ∧
    (s.fstate = .parsingLeader → ((classify o s).2 = .data0 ∨ (classify o s).2 = .data1) →
      ∃ t, exec (obsInstr o) s = .next t ∧ t.out.diag = .noEvent ∧ SameFrameRegisters s t) ∧
    (∀ t, exec (obsInstr o) s = .next t → t.out.diag = .sequenceViolation →
      (classify o s).2 = .leader ∧ (s.fstate = .parsingAddress ∨ s.fstate = .parsingCommand))

/-- spec/41_frame_assembler.md R93 (the spec's decision D1): an accepted high segment changes no register of the
frame assembler in any of the three states, raises nothing and emits nothing. -/
def Obligations.PendingTouchesNoFrameRegister : Prop :=
  ∀ (s : State) (o : Observation), s.cfg.Admitted → (classify o s).2 = .pending →
    ∃ t, exec (obsInstr o) s = .next t ∧ SameFrameRegisters s t ∧ SameSurroundings s t ∧
      t.sstate = .waitLow ∧ t.out = ⟨none, .noEvent, .pending⟩

/-- spec/10_state.md R16, spec/41_frame_assembler.md R80 to R89: the frame of an observation. The configuration,
the port and the input are unchanged. In `ParsingLeader` no register of the frame assembler changes unless the
result is `Leader`, and `command` not even then. While the address is being accumulated `command` is unchanged
and no address bit but the one at the running index changes; while the command is being accumulated `address` is
unchanged and no command bit but that one changes. -/
def Obligations.ObservationFrame : Prop :=
  ∀ (s t : State) (o : Observation), exec (obsInstr o) s = .next t →
    SameSurroundings s t ∧
    (s.fstate = .parsingLeader → t.command = s.command ∧
      (t.out.sym ≠ .leader → SameFrameRegisters s t)) ∧
    (s.fstate = .parsingAddress → t.fstate = .parsingAddress →
      t.command = s.command ∧ ∀ j < 16, j ≠ s.bitIndex.toNat → t.address.getLsbD j = s.address.getLsbD j) ∧
    (s.fstate = .parsingAddress → t.fstate = .parsingCommand →
      ∀ j < 15, t.address.getLsbD j = s.address.getLsbD j) ∧
    (s.fstate = .parsingCommand → t.fstate = .parsingCommand →
      t.address = s.address ∧ ∀ j < 16, j ≠ s.bitIndex.toNat → t.command.getLsbD j = s.command.getLsbD j)

/-! ### The transactions of the block's port -/

/-- spec/42_port_operations.md R111 (which the spec derives from R72): an `OBS.H` always runs; it never completes a
symbol, never emits, and raises nothing but `TimingMismatch`. With `None` it resets the block from either field
and changes no register of the frame assembler in `ParsingLeader`. -/
def Obligations.HighObservationNeverCompletesASymbol : Prop :=
  ∀ (s : State) (d : Nat), s.cfg.Admitted →
    ∃ t, exec (.obsH d) s = .next t ∧ t.out.cmd = none ∧
      (t.out.sym = .pending ∧ t.out.diag = .noEvent ∧ SameFrameRegisters s t ∧ t.sstate = .waitLow ∨
       t.out.sym = .none ∧ t.out.diag = .timingMismatch ∧ t.sstate = .waitHigh ∧ t.pendingHigh = 0 ∧
        (s.fstate = .parsingLeader → SameFrameRegisters s t) ∧
        (s.fstate ≠ .parsingLeader → t.RegistersReset))

/-- spec/42_port_operations.md R112 (which the spec derives from R72): an `OBS.L` always runs; its result is never
`Pending`, it leaves the classifier in `WaitHigh` with the memo cleared, and in `WaitHigh` its result is `None`
whatever the duration. -/
def Obligations.LowObservationAlwaysEndsThePair : Prop :=
  ∀ (s : State) (d : Nat), s.cfg.Admitted →
    ∃ t, exec (.obsL d) s = .next t ∧ t.out.sym ≠ .pending ∧ t.sstate = .waitHigh ∧ t.pendingHigh = 0 ∧
      (s.sstate = .waitHigh → t.out.sym = .none ∧ t.out.diag = .timingMismatch)

/-- spec/41_frame_assembler.md R94: `RESET` forces every register to its reset value from any state, emits and
reports nothing; it is idempotent; the state it leaves is the reset state; and a high segment already accepted is
forgotten, so that the low segment presented next yields `None`. -/
def Obligations.ResetForcesTheResetState : Prop :=
  ∀ s : State, s.cfg.Admitted →
    let t := { s with
      sstate := .waitHigh
      pendingHigh := 0
      fstate := .parsingLeader
      address := 0x0000#16
      command := 0x0000#16
      bitIndex := 0#5
      out := ⟨none, .noEvent, .pending⟩ }
    exec .reset s = .next t ∧ exec .reset t = .next t ∧
    t = { State.reset with cfg := s.cfg, port := s.port, input := s.input } ∧
    (∀ d, ∃ u, exec (.obsL d) t = .next u ∧ u.out.sym = .none)

/-- spec/42_port_operations.md R114 (the spec's decision D3): `NOP` changes no register, and its outputs are
`(Nothing, NoEvent, Pending)`. -/
def Obligations.NopChangesNoRegister : Prop :=
  ∀ s : State, s.cfg.Admitted → exec .nop s = .next { s with out := ⟨none, .noEvent, .pending⟩ }

/-- spec/41_frame_assembler.md R91, R97 (a), (b), spec/42_port_operations.md R116 (which the spec derives): a byte
is emitted only by an `OBS.L` in `ParsingCommand` at `bit_index` 15 whose result is a data symbol. The byte is the
low byte accumulated, and the high byte, its last bit being the one of this symbol, is its complement. The block is
then in the reset state and the step reports no event. -/
def Obligations.ByteIsEmittedOnlyForAValidCommand : Prop :=
  ∀ (i : Instr) (s t : State) (b : Byte), exec i s = .next t → t.out.cmd = some b →
    (∃ d, i = .obsL d) ∧ s.fstate = .parsingCommand ∧ s.bitIndex = 15#5 ∧ t.RegistersReset ∧
    t.out.diag = .noEvent ∧ s.command.extractLsb' 0 8 = b ∧
    (∀ j < 7, s.command.getLsbD (8 + j) = !b.getLsbD j) ∧ t.out.sym = dataSymbol (!b.getLsbD 7)

/-- spec/60_exceptions.md R121, R128, spec/41_frame_assembler.md R95: when each event is reported, exactly; no
transaction but an observation at the block's port reports one or emits a byte. For `RESET` and `NOP` that is
spec/42_port_operations.md R113, R114; for the four transactions of the classifier's own port, a classification with
the result `None` among them, it is the model's choice that `cmd` and `diag` stay silent there (log 6). -/
def Obligations.EventsAreReportedExactlyWhen : Prop :=
  (∀ (s t : State) (o : Observation), exec (obsInstr o) s = .next t →
    (t.out.diag = .timingMismatch ↔ (classify o s).2 = .none) ∧
    (t.out.diag = .sequenceViolation ↔ (classify o s).2 = .leader ∧ s.fstate ≠ .parsingLeader) ∧
    (t.out.diag = .addrCheckFail ↔ s.fstate = .parsingAddress ∧ s.bitIndex = 15#5 ∧
      ∃ b, (classify o s).2 = dataSymbol b ∧ addressMatches s.cfg (writeBit s.address 15 b) = false) ∧
    (t.out.diag = .cmdCheckFail ↔ s.fstate = .parsingCommand ∧ s.bitIndex = 15#5 ∧
      ∃ b, (classify o s).2 = dataSymbol b ∧ commandValid (writeBit s.command 15 b) = false)) ∧
  (∀ (s t : State) (i : Instr), (∀ o, i ≠ obsInstr o) → exec i s = .next t →
    t.out.diag = .noEvent ∧ t.out.cmd = none)

/-- spec/42_port_operations.md R116 (the spec's decision D19), spec/10_state.md R18, R19: what a transaction does
depends on no output of an earlier step. -/
def Obligations.OutputsAreNeverRead : Prop :=
  ∀ (i : Instr) (s : State) (o : Output), exec i { s with out := o } = exec i s

/-! ### Whole-machine rules -/

/-- spec/41_frame_assembler.md R97 (e) (which the spec derives from R95): a step from a field that reports an event
ends in the reset state, except a failed address check under `Continue`. -/
def Obligations.EventInAFieldEndsInTheResetState : Prop :=
  ∀ (s t : State) (o : Observation), exec (obsInstr o) s = .next t → s.fstate ≠ .parsingLeader →
    t.out.diag ≠ .noEvent →
    t.RegistersReset ∨
      (s.cfg.addrFailPolicy = .continueOn ∧ t.out.diag = .addrCheckFail ∧ t.fstate = .parsingCommand)

/-- spec/41_frame_assembler.md R81, R97 (f), R96: whatever transaction takes the block from a field back to
`ParsingLeader` leaves all six registers at their reset values, so no bit of one frame reaches the next. -/
def Obligations.ReturnToLeaderSeekingIsAFullReset : Prop :=
  ∀ (i : Instr) (s t : State), exec i s = .next t → s.fstate ≠ .parsingLeader →
    t.fstate = .parsingLeader → t.RegistersReset

/-- spec/10_state.md R11, spec/41_frame_assembler.md R96: the only moves of the frame assembler's state from one
transaction to the next: stay, leader to address, address to command, and back to leader. -/
def Obligations.FrameStateMovesAlongTheDiagram : Prop :=
  ∀ (i : Instr) (s t : State), exec i s = .next t →
    t.fstate = s.fstate ∨ t.fstate = .parsingLeader ∨
    (s.fstate = .parsingLeader ∧ t.fstate = .parsingAddress ∧ t.out.sym = .leader) ∨
    (s.fstate = .parsingAddress ∧ t.fstate = .parsingCommand ∧ s.bitIndex = 15#5)

/-- spec/00_scope.md R9, spec/20_memory.md R35, R39, spec/70_reset_and_hazards.md R152: no step writes the
configuration, not even a hardware reset, and every step takes exactly one item off the input. -/
def Obligations.StepKeepsTheConfiguration : Prop :=
  ∀ s t : State, step s = .next t → t.cfg = s.cfg ∧ t.port = s.port ∧ t.input = s.input.tail

/-- spec/10_state.md R26, R29, spec/60_exceptions.md R120: a configuration that is not well-formed is refused by
every transaction and every step; so is one with two data high counts, unless its parameter admits it (log 8,
log 9). -/
def Obligations.RefusedConfigurationsTakeNoStep : Prop :=
  ∀ s : State,
    (¬ s.cfg.WellFormed →
      step s = .refused .illFormedConfig ∧ ∀ i, exec i s = .refused .illFormedConfig) ∧
    (s.cfg.WellFormed → s.cfg.data0High ≠ s.cfg.data1High → s.cfg.allowSplitDataHigh = false →
      step s = .refused .splitDataHigh ∧ ∀ i, exec i s = .refused .splitDataHigh)

/-- spec/42_port_operations.md R110 to R114, spec/30_encoding.md R51: when the next cycle has `rst` low and its word
decodes to a transaction, the step is that transaction, with the cycle taken off the input. -/
def Obligations.StepRunsTheDecodedTransaction : Prop :=
  ∀ (s : State) (w : TxWord) (cs : List Cycle) (i : Instr), s.cfg.Admitted → s.input = ⟨false, w⟩ :: cs →
    decode s.port s.cfg.durW w = .ok i → step s = exec i { s with input := cs }

/-- spec/42_port_operations.md R114, spec/60_exceptions.md R132, R134 (that an exhausted input stream is a cycle
without a call is the model's choice, log 2): with nothing presented the registers hold. -/
def Obligations.NothingPresentedNothingChanges : Prop :=
  ∀ s : State, s.cfg.Admitted → s.input = [] → step s = .next { s with out := ⟨none, .noEvent, .pending⟩ }

/-- spec/70_reset_and_hazards.md R140, R141, spec/60_exceptions.md R128 (that a cycle of `rst` is one step of the
model: log 12; that it resets the whole block at the classifier's own port too: log 22): while `rst` is asserted the
block holds the reset state and ignores what is presented with it, even a number that is no transaction word. -/
def Obligations.HardwareResetWinsOverEverything : Prop :=
  ∀ (s : State) (w : TxWord) (cs : List Cycle), s.cfg.Admitted → s.input = ⟨true, w⟩ :: cs →
    ∃ t, step s = .next t ∧ t.RegistersReset ∧ outputWord t.out = 0#15 ∧ t.cfg = s.cfg ∧ t.input = cs

/-- spec/70_reset_and_hazards.md R140: the reset state of the registers and the outputs of a reset step. The
configuration that stands beside them is the spec's defaults (10_state.md R21 to R28, its decision D10), and that
nothing is presented yet is the model's choice (log 16). -/
def Obligations.ResetStateIsTheSpecs : Prop :=
  State.reset.fstate = .parsingLeader ∧ State.reset.address = 0x0000#16 ∧ State.reset.command = 0x0000#16 ∧
  State.reset.bitIndex = 0#5 ∧ State.reset.sstate = .waitHigh ∧ State.reset.pendingHigh = 0 ∧
  outputWord State.reset.out = 0#15 ∧ State.reset.port = .top ∧ State.reset.input = [] ∧
  State.reset.cfg = ⟨32, 8, 560, 16, 8, 1, 1, 1, 3, 0x00#8, 0xFF#8, .restart, false⟩ ∧
  State.reset.cfg.Admitted

/-- spec/10_state.md R17: the invariants hold in the reset state, for every configuration the block is run with and
whatever is to be presented. -/
def Obligations.InvariantsHoldAfterReset : Prop :=
  ∀ (c : Config) (p : Port) (cs : List Cycle), c.Admitted → (State.construct c p cs).Inv

/-- spec/10_state.md R17 (which the spec derives from R65 to R70 and R81 to R94): every step from a state that meets
the invariants (a) to (h) leads to a state that meets them. -/
def Obligations.EveryStepKeepsTheInvariants : Prop :=
  ∀ s t : State, s.Inv → step s = .next t → t.Inv

/-- spec/42_port_operations.md R110, R117, spec/60_exceptions.md R120, spec/70_reset_and_hazards.md R150: the block
never halts: from any state with a configuration it is run with and input it can be given, any number of steps is
taken, each consuming one item of the input. -/
def Obligations.BlockNeverHalts : Prop :=
  ∀ (k : Nat) (s : State), s.cfg.Admitted → s.InputFits →
    ∃ os t, trace k s = some (os, t) ∧ os.length = k ∧ t.input = s.input.drop k ∧ t.cfg = s.cfg

/-- spec/60_exceptions.md R133, spec/10_state.md R20: a step of one instance is that instance's own step and leaves
every other instance as it was. -/
def Obligations.InstancesDoNotInfluenceEachOther : Prop :=
  ∀ (k : Nat) (is is' : List State), stepInstance k is = some (.next is') →
    (∃ s t, is[k]? = some s ∧ step s = .next t ∧ is'[k]? = some t) ∧
    is'.length = is.length ∧ ∀ j, j ≠ k → is'[j]? = is[j]?

/-! ### Frames -/

/-- spec/41_frame_assembler.md R97 (c), spec/95_test_vectors.md S1, S3: from `ParsingLeader` with the classifier in
`WaitHigh`, the 66 observations of a frame with the expected address, a command byte and its complement, each
duration anywhere in the interval that rounds to its profile count, emit exactly one byte, that command byte, in
the 66th step, report no event, and end in the reset state; for every configuration whose three profiles differ as
pairs, and every command byte. -/
def Obligations.ValidFrameEmitsItsCommandOnce : Prop :=
  ∀ (s : State) (b : Byte) (ps : List (Nat × Nat)) (rest : List Cycle),
    s.cfg.Admitted → ProfilesDistinct s.cfg → s.port = .top →
    s.fstate = .parsingLeader → s.sstate = .waitHigh →
    CarriesFrame s.cfg s.cfg.expAddrLow s.cfg.expAddrHigh b (~~~b) ps →
    (∀ p ∈ ps, p.1 < 2 ^ s.cfg.durW ∧ p.2 < 2 ^ s.cfg.durW) →
    s.input = presentAll s.cfg.durW (pairObservations ps) ++ rest →
    ∃ os t, trace 66 s = some (os, t) ∧
      os.map Output.cmd = List.replicate 65 none ++ [some b] ∧
      os.map Output.diag = List.replicate 66 .noEvent ∧
      t.RegistersReset ∧ t.input = rest

/-- spec/30_encoding.md R55, spec/41_frame_assembler.md R97 (c): the pseudo-operation `NECFRAME b`, its 66 durations
the exact multiples of the unit, decodes to `b`. -/
def Obligations.NominalFrameDecodes : Prop :=
  ∀ (s : State) (b : Byte) (rest : List Cycle),
    s.cfg.Admitted → ProfilesDistinct s.cfg → s.port = .top →
    s.fstate = .parsingLeader → s.sstate = .waitHigh →
    (∀ i ∈ necFrameOps s.cfg b, i.wellFormed s.cfg.durW = true) →
    s.input = presentAll s.cfg.durW (necFrameOps s.cfg b) ++ rest →
    ∃ os t, trace 66 s = some (os, t) ∧ emittedBytes os = [b] ∧ t.RegistersReset ∧ t.input = rest

/-- spec/41_frame_assembler.md R88, spec/95_test_vectors.md S6: under `Restart` a frame whose address bytes are not
the expected ones emits nothing, whatever its command; `AddrCheckFail` is reported in step 34 and nothing else; the
rest of the frame is ignored and the block ends in the reset state. -/
def Obligations.WrongAddressFrameIsDroppedWhole : Prop :=
  ∀ (s : State) (a0 a1 c0 c1 : Byte) (ps : List (Nat × Nat)) (rest : List Cycle),
    s.cfg.Admitted → ProfilesDistinct s.cfg → s.port = .top → s.cfg.addrFailPolicy = .restart →
    s.fstate = .parsingLeader → s.sstate = .waitHigh →
    ¬ (a0 = s.cfg.expAddrLow ∧ a1 = s.cfg.expAddrHigh) →
    CarriesFrame s.cfg a0 a1 c0 c1 ps →
    (∀ p ∈ ps, p.1 < 2 ^ s.cfg.durW ∧ p.2 < 2 ^ s.cfg.durW) →
    s.input = presentAll s.cfg.durW (pairObservations ps) ++ rest →
    ∃ os t, trace 66 s = some (os, t) ∧ emittedBytes os = [] ∧
      os.map Output.diag = List.replicate 33 .noEvent ++ [.addrCheckFail] ++ List.replicate 32 .noEvent ∧
      t.RegistersReset ∧ t.input = rest

/-- spec/41_frame_assembler.md R88: under `Continue` a frame with a wrong address and a valid command pair emits its
command byte; the one trace of the address is `AddrCheckFail` in step 34. -/
def Obligations.ContinuePolicyDecodesDespiteTheAddress : Prop :=
  ∀ (s : State) (a0 a1 b : Byte) (ps : List (Nat × Nat)) (rest : List Cycle),
    s.cfg.Admitted → ProfilesDistinct s.cfg → s.port = .top → s.cfg.addrFailPolicy = .continueOn →
    s.fstate = .parsingLeader → s.sstate = .waitHigh →
    ¬ (a0 = s.cfg.expAddrLow ∧ a1 = s.cfg.expAddrHigh) →
    CarriesFrame s.cfg a0 a1 b (~~~b) ps →
    (∀ p ∈ ps, p.1 < 2 ^ s.cfg.durW ∧ p.2 < 2 ^ s.cfg.durW) →
    s.input = presentAll s.cfg.durW (pairObservations ps) ++ rest →
    ∃ os t, trace 66 s = some (os, t) ∧
      os.map Output.cmd = List.replicate 65 none ++ [some b] ∧
      os.map Output.diag = List.replicate 33 .noEvent ++ [.addrCheckFail] ++ List.replicate 32 .noEvent ∧
      t.RegistersReset ∧ t.input = rest

/-- spec/41_frame_assembler.md R90, R92, spec/95_test_vectors.md S5: a frame with the expected address whose two
command bytes are not complements emits nothing; `CmdCheckFail` is reported in step 66, which ends in the reset
state. -/
def Obligations.BadCommandPairFrameEmitsNothing : Prop :=
  ∀ (s : State) (c0 c1 : Byte) (ps : List (Nat × Nat)) (rest : List Cycle),
    s.cfg.Admitted → ProfilesDistinct s.cfg → s.port = .top →
    s.fstate = .parsingLeader → s.sstate = .waitHigh → c0 ≠ ~~~c1 →
    CarriesFrame s.cfg s.cfg.expAddrLow s.cfg.expAddrHigh c0 c1 ps →
    (∀ p ∈ ps, p.1 < 2 ^ s.cfg.durW ∧ p.2 < 2 ^ s.cfg.durW) →
    s.input = presentAll s.cfg.durW (pairObservations ps) ++ rest →
    ∃ os t, trace 66 s = some (os, t) ∧ emittedBytes os = [] ∧
      os.map Output.diag = List.replicate 65 .noEvent ++ [.cmdCheckFail] ∧
      t.RegistersReset ∧ t.input = rest

/-- spec/95_test_vectors.md S2, spec/41_frame_assembler.md R81, R97 (f), spec/60_exceptions.md R130: after a step in a
field that reports a protocol violation (a timing mismatch, a sequence violation, a failed command check, or under
`Restart` a failed address check), the next valid frame, begun at once, decodes to its command byte. -/
def Obligations.NextFrameAfterAViolationDecodes : Prop :=
  ∀ (s t : State) (b : Byte) (ps : List (Nat × Nat)) (rest : List Cycle),
    ProfilesDistinct s.cfg → s.port = .top → s.fstate ≠ .parsingLeader → step s = .next t →
    (t.out.diag = .timingMismatch ∨ t.out.diag = .sequenceViolation ∨ t.out.diag = .cmdCheckFail ∨
      (t.out.diag = .addrCheckFail ∧ s.cfg.addrFailPolicy = .restart)) →
    CarriesFrame s.cfg s.cfg.expAddrLow s.cfg.expAddrHigh b (~~~b) ps →
    (∀ p ∈ ps, p.1 < 2 ^ s.cfg.durW ∧ p.2 < 2 ^ s.cfg.durW) →
    t.input = presentAll s.cfg.durW (pairObservations ps) ++ rest →
    ∃ os u, trace 66 t = some (os, u) ∧ emittedBytes os = [b] ∧ u.RegistersReset ∧ u.input = rest

/-- spec/41_frame_assembler.md R97 (d) (which the spec derives): from the reset state of the registers no input
whatever, under any configuration, makes the block emit a byte in fewer than 66 steps. At the block's port that is
the rule; at the classifier's own port it is the model's choice that `cmd` stays silent there (log 6). -/
def Obligations.NoByteInFewerThan66Steps : Prop :=
  ∀ (k : Nat) (s t : State) (os : List Output), k < 66 → s.RegistersReset → trace k s = some (os, t) →
    emittedBytes os = []

/-- spec/42_port_operations.md R114, spec/60_exceptions.md R132: any number of `NOP`s between other transactions is
without effect: leaving them out changes neither the bytes emitted, in order, nor the registers at the end. -/
def Obligations.NopsAreInvisible : Prop :=
  ∀ (is : List Instr) (s t u : State) (os os' : List Output), s.port = .top →
    (∀ i ∈ is, i.port = .top ∧ i.wellFormed s.cfg.durW = true) →
    trace is.length { s with input := presentAll s.cfg.durW is } = some (os, t) →
    trace (is.filter (· ≠ .nop)).length
      { s with input := presentAll s.cfg.durW (is.filter (· ≠ .nop)) } = some (os', u) →
    emittedBytes os = emittedBytes os' ∧ SameFrameRegisters t u ∧ SameClassifierRegisters t u
end

