-- ==== Sys2Proof/Laws/State.lean ====
section
/-!
SUPPORT. One lemma for each field after each named update: what the update writes, and that it leaves the rest.
-/

namespace Sys2Proof.Machine

variable (s : State)

/-! ### symReset -/

@[simp] theorem symReset_cfg : (symReset s).cfg = s.cfg := rfl
@[simp] theorem symReset_port : (symReset s).port = s.port := rfl
@[simp] theorem symReset_sstate : (symReset s).sstate = .waitHigh := rfl
@[simp] theorem symReset_pendingHigh : (symReset s).pendingHigh = 0 := rfl
@[simp] theorem symReset_fstate : (symReset s).fstate = s.fstate := rfl
@[simp] theorem symReset_address : (symReset s).address = s.address := rfl
@[simp] theorem symReset_command : (symReset s).command = s.command := rfl
@[simp] theorem symReset_bitIndex : (symReset s).bitIndex = s.bitIndex := rfl
@[simp] theorem symReset_out : (symReset s).out = s.out := rfl
@[simp] theorem symReset_input : (symReset s).input = s.input := rfl

/-! ### enterLeader -/

@[simp] theorem enterLeader_cfg : (enterLeader s).cfg = s.cfg := rfl
@[simp] theorem enterLeader_port : (enterLeader s).port = s.port := rfl
@[simp] theorem enterLeader_sstate : (enterLeader s).sstate = .waitHigh := rfl
@[simp] theorem enterLeader_pendingHigh : (enterLeader s).pendingHigh = 0 := rfl
@[simp] theorem enterLeader_fstate : (enterLeader s).fstate = .parsingLeader := rfl
@[simp] theorem enterLeader_address : (enterLeader s).address = 0#16 := rfl
@[simp] theorem enterLeader_command : (enterLeader s).command = 0#16 := rfl
@[simp] theorem enterLeader_bitIndex : (enterLeader s).bitIndex = 0#5 := rfl
@[simp] theorem enterLeader_out : (enterLeader s).out = s.out := rfl
@[simp] theorem enterLeader_input : (enterLeader s).input = s.input := rfl

/-! ### enterAddress -/

@[simp] theorem enterAddress_cfg : (enterAddress s).cfg = s.cfg := rfl
@[simp] theorem enterAddress_port : (enterAddress s).port = s.port := rfl
@[simp] theorem enterAddress_sstate : (enterAddress s).sstate = s.sstate := rfl
@[simp] theorem enterAddress_pendingHigh : (enterAddress s).pendingHigh = s.pendingHigh := rfl
@[simp] theorem enterAddress_fstate : (enterAddress s).fstate = .parsingAddress := rfl
@[simp] theorem enterAddress_address : (enterAddress s).address = 0#16 := rfl
@[simp] theorem enterAddress_command : (enterAddress s).command = s.command := rfl
@[simp] theorem enterAddress_bitIndex : (enterAddress s).bitIndex = 0#5 := rfl
@[simp] theorem enterAddress_out : (enterAddress s).out = s.out := rfl
@[simp] theorem enterAddress_input : (enterAddress s).input = s.input := rfl

/-! ### enterCommand -/

@[simp] theorem enterCommand_cfg : (enterCommand s).cfg = s.cfg := rfl
@[simp] theorem enterCommand_port : (enterCommand s).port = s.port := rfl
@[simp] theorem enterCommand_sstate : (enterCommand s).sstate = s.sstate := rfl
@[simp] theorem enterCommand_pendingHigh : (enterCommand s).pendingHigh = s.pendingHigh := rfl
@[simp] theorem enterCommand_fstate : (enterCommand s).fstate = .parsingCommand := rfl
@[simp] theorem enterCommand_address : (enterCommand s).address = s.address := rfl
@[simp] theorem enterCommand_command : (enterCommand s).command = 0#16 := rfl
@[simp] theorem enterCommand_bitIndex : (enterCommand s).bitIndex = 0#5 := rfl
@[simp] theorem enterCommand_out : (enterCommand s).out = s.out := rfl
@[simp] theorem enterCommand_input : (enterCommand s).input = s.input := rfl

/-! ### raise -/

@[simp] theorem raise_cfg (e : Event) : (raise e s).cfg = s.cfg := rfl
@[simp] theorem raise_port (e : Event) : (raise e s).port = s.port := rfl
@[simp] theorem raise_sstate (e : Event) : (raise e s).sstate = s.sstate := rfl
@[simp] theorem raise_pendingHigh (e : Event) : (raise e s).pendingHigh = s.pendingHigh := rfl
@[simp] theorem raise_fstate (e : Event) : (raise e s).fstate = s.fstate := rfl
@[simp] theorem raise_address (e : Event) : (raise e s).address = s.address := rfl
@[simp] theorem raise_command (e : Event) : (raise e s).command = s.command := rfl
@[simp] theorem raise_bitIndex (e : Event) : (raise e s).bitIndex = s.bitIndex := rfl
@[simp] theorem raise_out (e : Event) : (raise e s).out = ⟨s.out.cmd, e, s.out.sym⟩ := rfl
@[simp] theorem raise_input (e : Event) : (raise e s).input = s.input := rfl

/-! ### emit -/

@[simp] theorem emit_cfg (b : Byte) : (emit b s).cfg = s.cfg := rfl
@[simp] theorem emit_port (b : Byte) : (emit b s).port = s.port := rfl
@[simp] theorem emit_sstate (b : Byte) : (emit b s).sstate = s.sstate := rfl
@[simp] theorem emit_pendingHigh (b : Byte) : (emit b s).pendingHigh = s.pendingHigh := rfl
@[simp] theorem emit_fstate (b : Byte) : (emit b s).fstate = s.fstate := rfl
@[simp] theorem emit_address (b : Byte) : (emit b s).address = s.address := rfl
@[simp] theorem emit_command (b : Byte) : (emit b s).command = s.command := rfl
@[simp] theorem emit_bitIndex (b : Byte) : (emit b s).bitIndex = s.bitIndex := rfl
@[simp] theorem emit_out (b : Byte) : (emit b s).out = ⟨some b, s.out.diag, s.out.sym⟩ := rfl
@[simp] theorem emit_input (b : Byte) : (emit b s).input = s.input := rfl

/-! ### takeEvent -/

@[simp] theorem takeEvent_cfg (e : Event) : (takeEvent e s).cfg = s.cfg := rfl
@[simp] theorem takeEvent_port (e : Event) : (takeEvent e s).port = s.port := rfl
@[simp] theorem takeEvent_sstate (e : Event) : (takeEvent e s).sstate = .waitHigh := rfl
@[simp] theorem takeEvent_pendingHigh (e : Event) : (takeEvent e s).pendingHigh = 0 := rfl
@[simp] theorem takeEvent_fstate (e : Event) : (takeEvent e s).fstate = .parsingLeader := rfl
@[simp] theorem takeEvent_address (e : Event) : (takeEvent e s).address = 0#16 := rfl
@[simp] theorem takeEvent_command (e : Event) : (takeEvent e s).command = 0#16 := rfl
@[simp] theorem takeEvent_bitIndex (e : Event) : (takeEvent e s).bitIndex = 0#5 := rfl
@[simp] theorem takeEvent_out (e : Event) : (takeEvent e s).out = ⟨s.out.cmd, e, s.out.sym⟩ := rfl
@[simp] theorem takeEvent_input (e : Event) : (takeEvent e s).input = s.input := rfl

/-! ### startOutputs -/

@[simp] theorem startOutputs_cfg (y : SymResult) : (startOutputs y s).cfg = s.cfg := rfl
@[simp] theorem startOutputs_port (y : SymResult) : (startOutputs y s).port = s.port := rfl
@[simp] theorem startOutputs_sstate (y : SymResult) : (startOutputs y s).sstate = s.sstate := rfl
@[simp] theorem startOutputs_pendingHigh (y : SymResult) : (startOutputs y s).pendingHigh = s.pendingHigh := rfl
@[simp] theorem startOutputs_fstate (y : SymResult) : (startOutputs y s).fstate = s.fstate := rfl
@[simp] theorem startOutputs_address (y : SymResult) : (startOutputs y s).address = s.address := rfl
@[simp] theorem startOutputs_command (y : SymResult) : (startOutputs y s).command = s.command := rfl
@[simp] theorem startOutputs_bitIndex (y : SymResult) : (startOutputs y s).bitIndex = s.bitIndex := rfl
@[simp] theorem startOutputs_out (y : SymResult) : (startOutputs y s).out = ⟨.none, if y = .none then .timingMismatch else .noEvent, y⟩ := rfl
@[simp] theorem startOutputs_input (y : SymResult) : (startOutputs y s).input = s.input := rfl

/-! ### quietOutputs -/

@[simp] theorem quietOutputs_cfg (y : SymResult) : (quietOutputs y s).cfg = s.cfg := rfl
@[simp] theorem quietOutputs_port (y : SymResult) : (quietOutputs y s).port = s.port := rfl
@[simp] theorem quietOutputs_sstate (y : SymResult) : (quietOutputs y s).sstate = s.sstate := rfl
@[simp] theorem quietOutputs_pendingHigh (y : SymResult) : (quietOutputs y s).pendingHigh = s.pendingHigh := rfl
@[simp] theorem quietOutputs_fstate (y : SymResult) : (quietOutputs y s).fstate = s.fstate := rfl
@[simp] theorem quietOutputs_address (y : SymResult) : (quietOutputs y s).address = s.address := rfl
@[simp] theorem quietOutputs_command (y : SymResult) : (quietOutputs y s).command = s.command := rfl
@[simp] theorem quietOutputs_bitIndex (y : SymResult) : (quietOutputs y s).bitIndex = s.bitIndex := rfl
@[simp] theorem quietOutputs_out (y : SymResult) : (quietOutputs y s).out = ⟨.none, .noEvent, y⟩ := rfl
@[simp] theorem quietOutputs_input (y : SymResult) : (quietOutputs y s).input = s.input := rfl

/-! ### storeBit_address -/

@[simp] theorem storeBit_address_cfg (b : Bool) : (storeBit .address b s).cfg = s.cfg := rfl
@[simp] theorem storeBit_address_port (b : Bool) : (storeBit .address b s).port = s.port := rfl
@[simp] theorem storeBit_address_sstate (b : Bool) : (storeBit .address b s).sstate = s.sstate := rfl
@[simp] theorem storeBit_address_pendingHigh (b : Bool) : (storeBit .address b s).pendingHigh = s.pendingHigh := rfl
@[simp] theorem storeBit_address_fstate (b : Bool) : (storeBit .address b s).fstate = s.fstate := rfl
@[simp] theorem storeBit_address_address (b : Bool) : (storeBit .address b s).address = writeBit s.address s.bitIndex.toNat b := rfl
@[simp] theorem storeBit_address_command (b : Bool) : (storeBit .address b s).command = s.command := rfl
@[simp] theorem storeBit_address_bitIndex (b : Bool) : (storeBit .address b s).bitIndex = s.bitIndex + 1#5 := rfl
@[simp] theorem storeBit_address_out (b : Bool) : (storeBit .address b s).out = s.out := rfl
@[simp] theorem storeBit_address_input (b : Bool) : (storeBit .address b s).input = s.input := rfl

/-! ### storeBit_command -/

@[simp] theorem storeBit_command_cfg (b : Bool) : (storeBit .command b s).cfg = s.cfg := rfl
@[simp] theorem storeBit_command_port (b : Bool) : (storeBit .command b s).port = s.port := rfl
@[simp] theorem storeBit_command_sstate (b : Bool) : (storeBit .command b s).sstate = s.sstate := rfl
@[simp] theorem storeBit_command_pendingHigh (b : Bool) : (storeBit .command b s).pendingHigh = s.pendingHigh := rfl
@[simp] theorem storeBit_command_fstate (b : Bool) : (storeBit .command b s).fstate = s.fstate := rfl
@[simp] theorem storeBit_command_address (b : Bool) : (storeBit .command b s).address = s.address := rfl
@[simp] theorem storeBit_command_command (b : Bool) : (storeBit .command b s).command = writeBit s.command s.bitIndex.toNat b := rfl
@[simp] theorem storeBit_command_bitIndex (b : Bool) : (storeBit .command b s).bitIndex = s.bitIndex + 1#5 := rfl
@[simp] theorem storeBit_command_out (b : Bool) : (storeBit .command b s).out = s.out := rfl
@[simp] theorem storeBit_command_input (b : Bool) : (storeBit .command b s).input = s.input := rfl

end Sys2Proof.Machine
end

