-- ==== Sys2Proof/Laws/Ops.lean ====
section
/-!
SUPPORT. What the shared operations can do: the refusal of a configuration, the bit store, the full reset, the
profile predicates.
-/

namespace Sys2Proof.Machine

variable {s t : State}

/-! ### The configuration check -/

theorem configRefusal_eq_none {c : Config} : configRefusal c = none ↔ c.Admitted := by
  unfold configRefusal
  by_cases h : c.WellFormed
  · by_cases h' : c.SplitAdmitted
    · rw [if_neg (not_not.2 h), if_neg (not_not.2 h')]; exact ⟨fun _ => ⟨h, h'⟩, fun _ => rfl⟩
    · rw [if_neg (not_not.2 h), if_pos h']; exact ⟨fun e => by simp at e, fun e => absurd e.2 h'⟩
  · rw [if_pos h]; exact ⟨fun e => by simp at e, fun e => absurd e.1 h⟩

theorem configRefusal_of_not_wellFormed {c : Config} (h : ¬ c.WellFormed) :
    configRefusal c = some .illFormedConfig := if_pos h

theorem configRefusal_of_split {c : Config} (h : c.WellFormed) (h' : ¬ c.SplitAdmitted) :
    configRefusal c = some .splitDataHigh := by
  unfold configRefusal
  rw [if_neg (not_not.2 h), if_pos h']

theorem underConfig_admitted (f : State → State) (h : s.cfg.Admitted) : underConfig f s = .next (f s) := by
  simp only [underConfig, configRefusal_eq_none.2 h]

/-- An effect is taken exactly under an admitted configuration. -/
theorem underConfig_eq_next {f : State → State} :
    underConfig f s = .next t ↔ s.cfg.Admitted ∧ f s = t := by
  rw [← configRefusal_eq_none]
  unfold underConfig
  cases configRefusal s.cfg <;> simp

theorem underConfig_refused {f : State → State} {r : Refusal} (h : configRefusal s.cfg = some r) :
    underConfig f s = .refused r := by
  simp only [underConfig, h]

/-! ### The bit store -/

/-- Bit `j` of a field after bit `i` was written. -/
theorem getLsbD_writeBit (f : Field) (i : Nat) (b : Bool) {j : Nat} (hj : j < 16) :
    (writeBit f i b).getLsbD j = if j = i then b else f.getLsbD j := by
  unfold writeBit
  by_cases h : j = i
  · subst h; cases b <;> simp [hj]
  · have : (1#16 <<< i).getLsbD j = false := by
      simp only [BitVec.getLsbD_shiftLeft, hj, decide_true, Bool.true_and, BitVec.getLsbD_one, Bool.and_eq_false_iff]
      by_cases hl : j < i
      · simp [hl]
      · right; simp; omega
    cases b
    · simp only [Bool.false_eq_true, if_false, BitVec.getLsbD_and, BitVec.getLsbD_not, this, hj, h]; simp
    · simp only [if_true, BitVec.getLsbD_or, this, Bool.or_false, if_neg h]

/-- Above the running index a partially accumulated field stays 0. -/
theorem writeBit_ushiftRight {f : Field} {i : Nat} (b : Bool) (h : f >>> i = 0#16) :
    writeBit f i b >>> (i + 1) = 0#16 := by
  apply BitVec.eq_of_getLsbD_eq
  intro j _
  rw [BitVec.getLsbD_ushiftRight, BitVec.getLsbD_zero]
  by_cases hk : i + 1 + j < 16
  · rw [getLsbD_writeBit _ _ _ hk, if_neg (by omega)]
    have := congrArg (fun v : Field => v.getLsbD (1 + j)) h
    simpa [BitVec.getLsbD_ushiftRight, ← Nat.add_assoc] using this
  · exact BitVec.getLsbD_of_ge _ _ (by omega)

/-- The running index after a store inside the field. -/
theorem bitIndex_succ_toNat {i : BitVec 5} (h : i.toNat ≤ 15) : (i + 1#5).toNat = i.toNat + 1 := by
  rw [BitVec.toNat_add, BitVec.toNat_ofNat]; omega

/-- The store that fills the field is the one at index 15. -/
theorem bitIndex_succ_eq_sixteen {i : BitVec 5} : i + 1#5 = 16#5 ↔ i = 15#5 := by
  constructor
  · intro h; bv_omega
  · rintro rfl; rfl

/-! ### The full reset -/

theorem enterLeader_registersReset (s : State) : (enterLeader s).RegistersReset :=
  ⟨rfl, rfl, rfl, rfl, rfl, rfl⟩

theorem takeEvent_registersReset (e : Event) (s : State) : (takeEvent e s).RegistersReset :=
  enterLeader_registersReset _

/-! ### The profile predicates -/

theorem highMatch_iff {c : Config} {pc : Nat} :
    highMatch c pc = true ↔ pc = c.leaderHigh ∨ pc = c.data0High ∨ pc = c.data1High := by
  simp [highMatch, or_assoc]

/-- A count that is stored is stored whole, because it equals a profile count and so fits `PC_W` bits. -/
theorem storedCount_of_highMatch {c : Config} {pc : Nat} (hc : c.Admitted) (h : highMatch c pc = true) :
    storedCount c pc = pc := by
  obtain ⟨⟨_, _, _, _, h1, _, h2, _, h3, _⟩, _⟩ := hc
  exact Nat.mod_eq_of_lt (by rcases highMatch_iff.1 h with rfl | rfl | rfl <;> assumption)

theorem pairClass_ne_pending (c : Config) (ph pc : Nat) : pairClass c ph pc ≠ .pending := by
  unfold pairClass; split_ifs <;> simp

end Sys2Proof.Machine
end

