-- ==== Sys2Proof/Laws/Classifier.lean ====
section
/-!
SUPPORT. What one classification can do: its four arms (spec/40_symbol_classifier.md R65 to R68), said once.
-/

namespace Sys2Proof.Machine

variable {s : State} {o : Observation}

/-- Every classification is one of the four arms. -/
theorem classify_cases (o : Observation) (s : State) :
    (s.sstate = .waitHigh ∧ o.level = .high ∧ highMatch s.cfg (pulseCount s.cfg o.duration) = true ∧
      classify o s = ({ s with pendingHigh := storedCount s.cfg (pulseCount s.cfg o.duration),
                               sstate := .waitLow }, .pending)) ∨
    (s.sstate = .waitHigh ∧ ¬ (o.level = .high ∧ highMatch s.cfg (pulseCount s.cfg o.duration) = true) ∧
      classify o s = (symReset s, .none)) ∨
    (s.sstate = .waitLow ∧ o.level = .high ∧ classify o s = (symReset s, .none)) ∨
    (s.sstate = .waitLow ∧ o.level = .low ∧
      classify o s = (symReset s, pairClass s.cfg s.pendingHigh (pulseCount s.cfg o.duration))) := by
  unfold classify
  cases hs : s.sstate
  · simp only [classifyWaitHigh]
    by_cases h : o.level = .high ∧ highMatch s.cfg (pulseCount s.cfg o.duration) = true
    · rw [if_pos h]; exact .inl ⟨trivial, h.1, h.2, rfl⟩
    · rw [if_neg h]; exact .inr (.inl ⟨trivial, h, rfl⟩)
  · simp only [classifyWaitLow]
    cases o.level
    · exact .inr (.inr (.inl ⟨trivial, rfl, rfl⟩))
    · exact .inr (.inr (.inr ⟨trivial, rfl, rfl⟩))

/-- After a result other than `Pending` the classifier is reset and nothing else has changed
(40_symbol_classifier.md R73 (a)). -/
theorem classify_not_pending (h : (classify o s).2 ≠ .pending) : (classify o s).1 = symReset s := by
  rcases classify_cases o s with ⟨_, _, _, e⟩ | ⟨_, _, e⟩ | ⟨_, _, e⟩ | ⟨_, _, e⟩ <;> rw [e] at h ⊢
  exact absurd rfl h

/-- `Pending` comes only from the accepting arm (40_symbol_classifier.md R69). -/
theorem classify_pending (h : (classify o s).2 = .pending) :
    s.sstate = .waitHigh ∧ o.level = .high ∧ highMatch s.cfg (pulseCount s.cfg o.duration) = true ∧
      (classify o s).1 = { s with pendingHigh := storedCount s.cfg (pulseCount s.cfg o.duration),
                                  sstate := .waitLow } := by
  rcases classify_cases o s with ⟨h1, h2, h3, e⟩ | ⟨_, _, e⟩ | ⟨_, _, e⟩ | ⟨_, _, e⟩
  · exact ⟨h1, h2, h3, by rw [e]⟩
  all_goals rw [e] at h
  · exact absurd h (by simp)
  · exact absurd h (by simp)
  · exact absurd h (pairClass_ne_pending _ _ _)

/-- A concrete symbol comes only from a low observation in `WaitLow` (40_symbol_classifier.md R69). -/
theorem classify_concrete (h : (classify o s).2 ≠ .pending) (h' : (classify o s).2 ≠ .none) :
    s.sstate = .waitLow ∧ o.level = .low ∧
      (classify o s).2 = pairClass s.cfg s.pendingHigh (pulseCount s.cfg o.duration) := by
  rcases classify_cases o s with ⟨_, _, _, e⟩ | ⟨_, _, e⟩ | ⟨_, _, e⟩ | ⟨h1, h2, e⟩
  · rw [e] at h; exact absurd rfl h
  · rw [e] at h'; exact absurd rfl h'
  · rw [e] at h'; exact absurd rfl h'
  · exact ⟨h1, h2, by rw [e]⟩

/-! ### A classification writes the two classifier registers and nothing else -/

@[simp] theorem classify_cfg : (classify o s).1.cfg = s.cfg := by
  rcases classify_cases o s with ⟨_, _, _, e⟩ | ⟨_, _, e⟩ | ⟨_, _, e⟩ | ⟨_, _, e⟩ <;> rw [e] <;> rfl

@[simp] theorem classify_port : (classify o s).1.port = s.port := by
  rcases classify_cases o s with ⟨_, _, _, e⟩ | ⟨_, _, e⟩ | ⟨_, _, e⟩ | ⟨_, _, e⟩ <;> rw [e] <;> rfl

@[simp] theorem classify_fstate : (classify o s).1.fstate = s.fstate := by
  rcases classify_cases o s with ⟨_, _, _, e⟩ | ⟨_, _, e⟩ | ⟨_, _, e⟩ | ⟨_, _, e⟩ <;> rw [e] <;> rfl

@[simp] theorem classify_address : (classify o s).1.address = s.address := by
  rcases classify_cases o s with ⟨_, _, _, e⟩ | ⟨_, _, e⟩ | ⟨_, _, e⟩ | ⟨_, _, e⟩ <;> rw [e] <;> rfl

@[simp] theorem classify_command : (classify o s).1.command = s.command := by
  rcases classify_cases o s with ⟨_, _, _, e⟩ | ⟨_, _, e⟩ | ⟨_, _, e⟩ | ⟨_, _, e⟩ <;> rw [e] <;> rfl

@[simp] theorem classify_bitIndex : (classify o s).1.bitIndex = s.bitIndex := by
  rcases classify_cases o s with ⟨_, _, _, e⟩ | ⟨_, _, e⟩ | ⟨_, _, e⟩ | ⟨_, _, e⟩ <;> rw [e] <;> rfl

@[simp] theorem classify_out : (classify o s).1.out = s.out := by
  rcases classify_cases o s with ⟨_, _, _, e⟩ | ⟨_, _, e⟩ | ⟨_, _, e⟩ | ⟨_, _, e⟩ <;> rw [e] <;> rfl

@[simp] theorem classify_input : (classify o s).1.input = s.input := by
  rcases classify_cases o s with ⟨_, _, _, e⟩ | ⟨_, _, e⟩ | ⟨_, _, e⟩ | ⟨_, _, e⟩ <;> rw [e] <;> rfl

end Sys2Proof.Machine
end

