-- ==== Sys2Proof/Laws/Encoding.lean ====
section
/-!
SUPPORT. The fields of a transaction word that was put together from its fields (spec/30_encoding.md R41).
-/

namespace Sys2Proof

variable {durW d : Nat} {a b l : Bool}

theorem twDuration_mkTxWord (hd : d < 2 ^ durW) : twDuration durW (mkTxWord durW a b l d) = d := by
  have : mkTxWord durW a b l d = d + 2 ^ durW * (a.toNat * 4 + b.toNat * 2 + l.toNat) := by
    unfold mkTxWord; ring
  rw [twDuration, this, Nat.add_mul_mod_self_left, Nat.mod_eq_of_lt hd]

/-- The three control bits above the duration. -/
theorem mkTxWord_div (hd : d < 2 ^ durW) :
    mkTxWord durW a b l d / 2 ^ durW = a.toNat * 4 + b.toNat * 2 + l.toNat := by
  have : mkTxWord durW a b l d = d + 2 ^ durW * (a.toNat * 4 + b.toNat * 2 + l.toNat) := by
    unfold mkTxWord; ring
  rw [this, Nat.add_mul_div_left _ _ (Nat.two_pow_pos _), Nat.div_eq_of_lt hd, Nat.zero_add]

theorem testBit_add_mkTxWord (hd : d < 2 ^ durW) (k : Nat) :
    (mkTxWord durW a b l d).testBit (durW + k) = (a.toNat * 4 + b.toNat * 2 + l.toNat).testBit k := by
  rw [← mkTxWord_div hd, Nat.testBit_div_two_pow, Nat.add_comm]

theorem twSrst_mkTxWord (hd : d < 2 ^ durW) : twSrst durW (mkTxWord durW a b l d) = a := by
  rw [twSrst, testBit_add_mkTxWord hd]; cases a <;> cases b <;> cases l <;> rfl

theorem twValid_mkTxWord (hd : d < 2 ^ durW) : twValid durW (mkTxWord durW a b l d) = b := by
  rw [twValid, testBit_add_mkTxWord hd]; cases a <;> cases b <;> cases l <;> rfl

theorem twLevel_mkTxWord (hd : d < 2 ^ durW) : twLevel durW (mkTxWord durW a b l d) = l := by
  have := testBit_add_mkTxWord (a := a) (b := b) (l := l) hd 0
  rw [Nat.add_zero] at this
  rw [twLevel, this]; cases a <;> cases b <;> cases l <;> rfl

theorem mkTxWord_fits (hd : d < 2 ^ durW) : FitsTxWord durW (mkTxWord durW a b l d) := by
  have h8 : (2 : Nat) ^ (durW + 3) = 8 * 2 ^ durW := by ring
  rw [FitsTxWord, h8, ← Nat.div_lt_iff_lt_mul (Nat.two_pow_pos _), mkTxWord_div hd]
  cases a <;> cases b <;> cases l <;> decide

theorem twDuration_lt (durW w : Nat) : twDuration durW w < 2 ^ durW := Nat.mod_lt _ (Nat.two_pow_pos _)

/-- Decoding a value of `TW` never rejects. -/
theorem decode_fits {p : Port} {w : TxWord} (h : FitsTxWord durW w) :
    decode p durW w = .ok (match p with
      | .top => decodeTop (twSrst durW w) (twValid durW w) (twLevel durW w) (twDuration durW w)
      | .sym => decodeSym (twSrst durW w) (twValid durW w) (twLevel durW w) (twDuration durW w)) := if_pos h

end Sys2Proof
end

