-- ==== Sys2Proof/Laws/FrameAssembler.lean ====
section
/-!
SUPPORT. What one `parse` can do: one equation for each arm of the frame assembler (spec/41_frame_assembler.md
R84 to R93), and what no arm touches.
-/

namespace Sys2Proof.Machine

variable {s : State} {o : Observation} {y : SymResult}

/-! ### Validation -/

theorem validateAddress_of_match (h : addressMatches s.cfg s.address = true) :
    validateAddress s = enterCommand s := if_pos h

theorem validateAddress_of_restart (h : addressMatches s.cfg s.address = false)
    (hp : s.cfg.addrFailPolicy = .restart) : validateAddress s = takeEvent .addrCheckFail s := by
  simp [validateAddress, h, addressFailureAction, hp, takeEvent]

theorem validateAddress_of_continue (h : addressMatches s.cfg s.address = false)
    (hp : s.cfg.addrFailPolicy = .continueOn) :
    validateAddress s = enterCommand (raise .addrCheckFail s) := by
  simp [validateAddress, h, addressFailureAction, hp]

theorem validateCommand_of_valid (h : commandValid s.command = true) :
    validateCommand s = enterLeader (emit (lowByte s.command) s) := if_pos h

theorem validateCommand_of_invalid (h : commandValid s.command = false) :
    validateCommand s = takeEvent .cmdCheckFail s := by
  simp [validateCommand, h]

theorem addressMatches_iff {c : Config} {f : Field} :
    addressMatches c f = true ↔ lowByte f = c.expAddrLow ∧ highByte f = c.expAddrHigh := by
  simp [addressMatches]

theorem commandValid_iff {f : Field} : commandValid f = true ↔ lowByte f = ~~~(highByte f) := by
  simp [commandValid]

/-! ### Data bits -/

theorem dataBit_of_last {r : FieldReg} {b : Bool} {v : State → State} (h : s.bitIndex = 15#5) :
    dataBit r b v s = v (storeBit r b s) := by
  cases r <;> exact if_pos (by simp [h])

theorem dataBit_of_not_last {r : FieldReg} {b : Bool} {v : State → State} (h : s.bitIndex ≠ 15#5) :
    dataBit r b v s = storeBit r b s := by
  cases r <;> exact if_neg (by simpa [bitIndex_succ_eq_sixteen] using h)

theorem fieldArm_of_bit {r : FieldReg} {v : State → State} {b : Bool} (h : symbolBit y = some b) :
    fieldArm r v y s = dataBit r b v s := by
  cases y <;> simp_all [symbolBit, fieldArm]

/-! ### `parse` by the state it starts in -/

theorem parse_leader (h : s.fstate = .parsingLeader) :
    parse o s = leaderArm (classify o s).2 (startOutputs (classify o s).2 (classify o s).1) := by
  simp [parse, frameArm, h]

theorem parse_address (h : s.fstate = .parsingAddress) :
    parse o s = addressArm (classify o s).2 (startOutputs (classify o s).2 (classify o s).1) := by
  simp [parse, frameArm, h]

theorem parse_command (h : s.fstate = .parsingCommand) :
    parse o s = commandArm (classify o s).2 (startOutputs (classify o s).2 (classify o s).1) := by
  simp [parse, frameArm, h]

/-- `Pending` reaches no register of the frame assembler (R93). -/
theorem parse_pending (h : (classify o s).2 = .pending) :
    parse o s = startOutputs .pending (classify o s).1 := by
  unfold parse frameArm
  rw [h]
  cases s.fstate <;> rfl

/-- The fields no arm of the frame assembler writes. -/
theorem frameArm_keeps (f : FState) (y : SymResult) (s : State) :
    (frameArm f y s).cfg = s.cfg ∧ (frameArm f y s).port = s.port ∧ (frameArm f y s).input = s.input ∧
      (frameArm f y s).out.sym = s.out.sym := by
  have hv : ∀ u : State, (validateAddress u).cfg = u.cfg ∧ (validateAddress u).port = u.port ∧
      (validateAddress u).input = u.input ∧ (validateAddress u).out.sym = u.out.sym := by
    intro u
    unfold validateAddress addressFailureAction
    split_ifs
    · simp
    · cases u.cfg.addrFailPolicy <;> simp [raise] <;> split <;> simp
  have hw : ∀ u : State, (validateCommand u).cfg = u.cfg ∧ (validateCommand u).port = u.port ∧
      (validateCommand u).input = u.input ∧ (validateCommand u).out.sym = u.out.sym := by
    intro u
    unfold validateCommand
    split_ifs <;> simp
  have hd : ∀ (r : FieldReg) (b : Bool) (v : State → State) (u : State),
      (∀ u : State, (v u).cfg = u.cfg ∧ (v u).port = u.port ∧ (v u).input = u.input ∧
        (v u).out.sym = u.out.sym) →
      (dataBit r b v u).cfg = u.cfg ∧ (dataBit r b v u).port = u.port ∧ (dataBit r b v u).input = u.input ∧
        (dataBit r b v u).out.sym = u.out.sym := by
    intro r b v u h
    unfold dataBit
    simp only
    split_ifs
    · have := h (storeBit r b u)
      cases r <;> simpa using this
    · cases r <;> simp
  cases f
  · cases y <;> simp [frameArm, leaderArm]
  · cases y <;> simp [frameArm, addressArm, fieldArm, hd _ _ _ _ hv]
  · cases y <;> simp [frameArm, commandArm, fieldArm, hd _ _ _ _ hw]

@[simp] theorem parse_cfg : (parse o s).cfg = s.cfg :=
  (frameArm_keeps _ _ _).1.trans classify_cfg

@[simp] theorem parse_port : (parse o s).port = s.port :=
  (frameArm_keeps _ _ _).2.1.trans classify_port

@[simp] theorem parse_input : (parse o s).input = s.input :=
  (frameArm_keeps _ _ _).2.2.1.trans classify_input

/-- The `sym` output is the result of the step's classification (R80, 42_port_operations.md R116). -/
@[simp] theorem parse_sym : (parse o s).out.sym = (classify o s).2 :=
  (frameArm_keeps _ _ _).2.2.2

end Sys2Proof.Machine
end

