-- ==== Sys2Proof/Laws/Parse.lean ====
section
/-!
SUPPORT. Everything one `parse` can do, as the rows of the transition table spec/41_frame_assembler.md R95: a proof
about an observation takes `parse_row` apart and never unfolds `parse`.
-/

namespace Sys2Proof.Machine

variable {s : State} {o : Observation} {b : Bool}

@[simp] theorem dataSymbol_ne_none (b : Bool) : dataSymbol b ≠ .none := by cases b <;> simp [dataSymbol]

@[simp] theorem dataSymbol_ne_leader (b : Bool) : dataSymbol b ≠ .leader := by cases b <;> simp [dataSymbol]

@[simp] theorem dataSymbol_ne_pending (b : Bool) : dataSymbol b ≠ .pending := by cases b <;> simp [dataSymbol]

@[simp] theorem dataSymbol_inj {a b : Bool} : dataSymbol a = dataSymbol b ↔ a = b := by
  cases a <;> cases b <;> simp [dataSymbol]

theorem symbolBit_dataSymbol (b : Bool) : symbolBit (dataSymbol b) = some b := by cases b <;> rfl

/-- The state a data symbol is stored in: the classifier is already back in its reset state. -/
abbrev afterData (b : Bool) (s : State) : State := startOutputs (dataSymbol b) (symReset s)

/-- The outcomes of `parse o` in the state `s`, by row of R95; `t` is the state it leads to. -/
inductive ParseRow (o : Observation) (s : State) : State → Prop
  /-- Rows 1, 5, 12. -/
  | pending (hy : (classify o s).2 = .pending) (hs : s.sstate = .waitHigh) (hl : o.level = .high)
      (hm : highMatch s.cfg (pulseCount s.cfg o.duration) = true) :
      ParseRow o s (startOutputs .pending
        { s with pendingHigh := storedCount s.cfg (pulseCount s.cfg o.duration), sstate := .waitLow })
  /-- Rows 2, 3. -/
  | ignored (hf : s.fstate = .parsingLeader) (hy : (classify o s).2 ≠ .leader)
      (hp : (classify o s).2 ≠ .pending) : ParseRow o s (startOutputs (classify o s).2 (symReset s))
  /-- Row 4. -/
  | leader (hf : s.fstate = .parsingLeader) (hy : (classify o s).2 = .leader) :
      ParseRow o s (enterAddress (startOutputs .leader (symReset s)))
  /-- Rows 10, 16. -/
  | invalid (hf : s.fstate ≠ .parsingLeader) (hy : (classify o s).2 = .none) :
      ParseRow o s (enterLeader (startOutputs .none (symReset s)))
  /-- Rows 11, 17. -/
  | sequence (hf : s.fstate ≠ .parsingLeader) (hy : (classify o s).2 = .leader) :
      ParseRow o s (takeEvent .sequenceViolation (startOutputs .leader (symReset s)))
  /-- Row 6. -/
  | addressBit (b : Bool) (hf : s.fstate = .parsingAddress) (hy : (classify o s).2 = dataSymbol b)
      (hi : s.bitIndex ≠ 15#5) : ParseRow o s (storeBit .address b (afterData b s))
  /-- Row 7. -/
  | addressMatch (b : Bool) (hf : s.fstate = .parsingAddress) (hy : (classify o s).2 = dataSymbol b)
      (hi : s.bitIndex = 15#5) (hm : addressMatches s.cfg (writeBit s.address 15 b) = true) :
      ParseRow o s (enterCommand (storeBit .address b (afterData b s)))
  /-- Row 8. -/
  | addressRestart (b : Bool) (hf : s.fstate = .parsingAddress) (hy : (classify o s).2 = dataSymbol b)
      (hi : s.bitIndex = 15#5) (hm : addressMatches s.cfg (writeBit s.address 15 b) = false)
      (hp : s.cfg.addrFailPolicy = .restart) :
      ParseRow o s (takeEvent .addrCheckFail (storeBit .address b (afterData b s)))
  /-- Row 9. -/
  | addressContinue (b : Bool) (hf : s.fstate = .parsingAddress) (hy : (classify o s).2 = dataSymbol b)
      (hi : s.bitIndex = 15#5) (hm : addressMatches s.cfg (writeBit s.address 15 b) = false)
      (hp : s.cfg.addrFailPolicy = .continueOn) :
      ParseRow o s (enterCommand (raise .addrCheckFail (storeBit .address b (afterData b s))))
  /-- Row 13. -/
  | commandBit (b : Bool) (hf : s.fstate = .parsingCommand) (hy : (classify o s).2 = dataSymbol b)
      (hi : s.bitIndex ≠ 15#5) : ParseRow o s (storeBit .command b (afterData b s))
  /-- Row 14. -/
  | commandValid (b : Bool) (hf : s.fstate = .parsingCommand) (hy : (classify o s).2 = dataSymbol b)
      (hi : s.bitIndex = 15#5) (hm : commandValid (writeBit s.command 15 b) = true) :
      ParseRow o s (enterLeader (emit (lowByte (writeBit s.command 15 b)) (storeBit .command b (afterData b s))))
  /-- Row 15. -/
  | commandInvalid (b : Bool) (hf : s.fstate = .parsingCommand) (hy : (classify o s).2 = dataSymbol b)
      (hi : s.bitIndex = 15#5) (hm : Machine.commandValid (writeBit s.command 15 b) = false) :
      ParseRow o s (takeEvent .cmdCheckFail (storeBit .command b (afterData b s)))

theorem classify_result (o : Observation) (s : State) :
    (classify o s).2 = .pending ∨ (classify o s).2 = .leader ∨ (classify o s).2 = .none ∨
      ∃ b, (classify o s).2 = dataSymbol b := by
  cases h : (classify o s).2
  · simp
  · simp
  · simp
  · exact .inr (.inr (.inr ⟨false, rfl⟩))
  · exact .inr (.inr (.inr ⟨true, rfl⟩))

theorem fieldArm_dataSymbol {r : FieldReg} {v : State → State} (hy : (classify o s).2 = dataSymbol b) :
    fieldArm r v (classify o s).2 (startOutputs (classify o s).2 (classify o s).1) =
      dataBit r b v (afterData b s) := by
  rw [classify_not_pending (by simp [hy]), hy,
    fieldArm_of_bit (symbolBit_dataSymbol b)]

theorem parse_row (o : Observation) (s : State) : ParseRow o s (parse o s) := by
  rcases classify_result o s with hy | hy | hy | ⟨b, hy⟩
  · obtain ⟨h1, h2, h3, h4⟩ := classify_pending hy
    rw [parse_pending hy, h4]
    exact .pending hy h1 h2 h3
  · have e := classify_not_pending (o := o) (s := s) (by simp [hy])
    cases hf : s.fstate
    · rw [parse_leader hf, e, hy]; exact .leader hf hy
    · rw [parse_address hf, e, hy]; exact .sequence (by simp [hf]) hy
    · rw [parse_command hf, e, hy]; exact .sequence (by simp [hf]) hy
  · have e := classify_not_pending (o := o) (s := s) (by simp [hy])
    cases hf : s.fstate
    · have := ParseRow.ignored (o := o) hf (by simp [hy]) (by simp [hy])
      rw [parse_leader hf, e, hy]; rwa [hy] at this
    · rw [parse_address hf, e, hy]; exact .invalid (by simp [hf]) hy
    · rw [parse_command hf, e, hy]; exact .invalid (by simp [hf]) hy
  · cases hf : s.fstate
    · have := ParseRow.ignored (o := o) hf (by simp [hy]) (by simp [hy])
      rw [parse_leader hf, classify_not_pending (by simp [hy]), hy]
      rw [hy] at this
      cases b <;> exact this
    · rw [parse_address hf, addressArm, fieldArm_dataSymbol hy]
      by_cases hi : s.bitIndex = 15#5
      · rw [dataBit_of_last (by simpa using hi)]
        cases hm : addressMatches s.cfg (writeBit s.address 15 b)
        · cases hp : s.cfg.addrFailPolicy
          · rw [validateAddress_of_restart (by simpa [hi] using hm) (by simpa using hp)]
            exact .addressRestart b hf hy hi hm hp
          · rw [validateAddress_of_continue (by simpa [hi] using hm) (by simpa using hp)]
            exact .addressContinue b hf hy hi hm hp
        · rw [validateAddress_of_match (by simpa [hi] using hm)]
          exact .addressMatch b hf hy hi hm
      · rw [dataBit_of_not_last (by simpa using hi)]
        exact .addressBit b hf hy hi
    · rw [parse_command hf, commandArm, fieldArm_dataSymbol hy]
      by_cases hi : s.bitIndex = 15#5
      · rw [dataBit_of_last (by simpa using hi)]
        cases hm : Machine.commandValid (writeBit s.command 15 b)
        · rw [validateCommand_of_invalid (by simpa [hi] using hm)]
          exact .commandInvalid b hf hy hi hm
        · rw [validateCommand_of_valid (by simpa [hi] using hm)]
          have := ParseRow.commandValid b hf hy hi hm
          simpa [hi] using this
      · rw [dataBit_of_not_last (by simpa using hi)]
        exact .commandBit b hf hy hi

end Sys2Proof.Machine
end

