-- ==== Sys2Proof/Laws/PerInstr.lean ====
section
/-!
SUPPORT. Facts stated for every transaction, one lemma for each constructor.
-/

namespace Sys2Proof.Laws.EncodeFits

/-- The canonical word of a well-formed transaction is a value of `TW` (spec/30_encoding.md R41, R56). -/
def Statement (i : Instr) : Prop := ∀ durW, i.wellFormed durW = true → FitsTxWord durW (encode durW i)

theorem reset : Statement .reset := fun _ _ => mkTxWord_fits (Nat.two_pow_pos _)
theorem obsH (d : Nat) : Statement (.obsH d) := fun _ h => mkTxWord_fits (of_decide_eq_true h)
theorem obsL (d : Nat) : Statement (.obsL d) := fun _ h => mkTxWord_fits (of_decide_eq_true h)
theorem nop : Statement .nop := fun _ _ => mkTxWord_fits (Nat.two_pow_pos _)
theorem symReset : Statement .symReset := fun _ _ => mkTxWord_fits (Nat.two_pow_pos _)
theorem symClassifyH (d : Nat) : Statement (.symClassifyH d) := fun _ h => mkTxWord_fits (of_decide_eq_true h)
theorem symClassifyL (d : Nat) : Statement (.symClassifyL d) := fun _ h => mkTxWord_fits (of_decide_eq_true h)
theorem symNop : Statement .symNop := fun _ _ => mkTxWord_fits (Nat.two_pow_pos _)

end Sys2Proof.Laws.EncodeFits
end

