-- ==== Sys2Proof/Laws/Step.lean ====
section
/-!
SUPPORT. What a transaction and a step can do: `exec` as one effect under the configuration check, the fetch by
the head of the input, and the step by what was fetched.
-/

namespace Sys2Proof.Machine

variable {s t : State} {i : Instr}

/-- The state a transaction leads to when the configuration is not refused. -/
def effect : Instr → State → State
  | .reset => frameReset
  | .obsH d => parse ⟨.high, d⟩
  | .obsL d => parse ⟨.low, d⟩
  | .nop => quietOutputs .pending
  | .symReset => fun s => quietOutputs .pending (symReset s)
  | .symClassifyH d => classifyAlone ⟨.high, d⟩
  | .symClassifyL d => classifyAlone ⟨.low, d⟩
  | .symNop => quietOutputs .pending

theorem exec_eq_underConfig (i : Instr) (s : State) : exec i s = underConfig (effect i) s := by
  cases i <;> rfl

/-- A transaction is refused by the configuration or runs to its effect; there is no third outcome. -/
theorem exec_eq_next : exec i s = .next t ↔ s.cfg.Admitted ∧ effect i s = t := by
  rw [exec_eq_underConfig, underConfig_eq_next]

theorem exec_admitted (i : Instr) (h : s.cfg.Admitted) : exec i s = .next (effect i s) :=
  exec_eq_next.2 ⟨h, rfl⟩

theorem effect_obsInstr (o : Observation) : effect (obsInstr o) = parse o := by
  obtain ⟨l, d⟩ := o
  cases l <;> rfl

theorem exec_obsInstr (o : Observation) : exec (obsInstr o) s = .next t ↔ s.cfg.Admitted ∧ parse o s = t := by
  rw [exec_eq_next, effect_obsInstr]

/-- No transaction writes the configuration, the port or the input stream. -/
theorem effect_keeps (i : Instr) (s : State) :
    (effect i s).cfg = s.cfg ∧ (effect i s).port = s.port ∧ (effect i s).input = s.input := by
  cases i <;> simp [effect, frameReset, classifyAlone]

/-! ### Fetch and step -/

theorem fetch_nil (h : s.cfg.Admitted) (hi : s.input = []) : fetch s = .run (idleInstr s.port) s := by
  simp only [fetch, configRefusal_eq_none.2 h, hi]

theorem fetch_cons {c : Cycle} {cs : List Cycle} (h : s.cfg.Admitted) (hi : s.input = c :: cs) :
    fetch s = fetchCycle c { s with input := cs } := by
  simp only [fetch, configRefusal_eq_none.2 h, hi]

theorem step_refused {r : Refusal} (h : configRefusal s.cfg = some r) : step s = .refused r := by
  simp only [step, fetch, h]

/-- Everything a step that is taken can be: a cycle without a call, a hardware reset, or the transaction of the
word presented. -/
theorem step_cases (h : step s = .next t) :
    s.cfg.Admitted ∧
      ((s.input = [] ∧ t = effect (idleInstr s.port) s) ∨
       (∃ c cs, s.input = c :: cs ∧ c.rst = true ∧ t = frameReset { s with input := cs }) ∨
       (∃ c cs i, s.input = c :: cs ∧ c.rst = false ∧ decode s.port s.cfg.durW c.word = .ok i ∧
          t = effect i { s with input := cs })) := by
  cases hr : configRefusal s.cfg with
  | some r => rw [step_refused hr] at h; cases h
  | none =>
    have ha := configRefusal_eq_none.1 hr
    refine ⟨ha, ?_⟩
    cases hi : s.input with
    | nil =>
      simp only [step, fetch_nil ha hi] at h
      exact .inl ⟨rfl, (exec_eq_next.1 h).2.symm⟩
    | cons c cs =>
      simp only [step, fetch_cons ha hi, fetchCycle] at h
      cases hc : c.rst
      · simp only [hc, Bool.false_eq_true, if_false] at h
        cases hd : decode s.port s.cfg.durW c.word with
        | ok i =>
          rw [hd] at h
          exact .inr (.inr ⟨c, cs, i, rfl, hc, hd, (exec_eq_next.1 h).2.symm⟩)
        | error e => rw [hd] at h; cases e; cases h
      · simp only [hc, if_true] at h
        exact .inr (.inl ⟨c, cs, rfl, hc, (underConfig_eq_next.1 h).2.symm⟩)

/-! ### Traces -/

theorem trace_succ {k : Nat} (h : step s = .next t) :
    trace (k + 1) s = (trace k t).map fun r => (t.out :: r.1, r.2) := by
  simp only [trace, h]

/-- A run of `a + b` steps is a run of `a` steps and then one of `b` steps. -/
theorem trace_add (a b : Nat) (s : State) :
    trace (a + b) s = (trace a s).bind fun r => (trace b r.2).map fun q => (r.1 ++ q.1, q.2) := by
  induction a generalizing s with
  | zero => simp [trace]
  | succ a ih =>
    rw [Nat.add_right_comm]
    cases h : step s with
    | next t =>
      rw [trace_succ h, trace_succ h, ih t]
      cases trace a t with
      | none => rfl
      | some r => cases h2 : trace b r.2 <;> simp [h2]
    | fault f => simp [trace, h]
    | refused r => simp [trace, h]

end Sys2Proof.Machine
end

