-- ==== Sys2Proof/Tests/Slice0.lean ====
section
/-!
SUPPORT. The model's own tests. The expected results are those of spec/95_test_vectors.md (the vector is named),
of the tables of spec/30_encoding.md, or written out by hand from the rule named. The last part shows, for each
statement that has hypotheses, concrete values that meet all of them together.
-/

namespace Sys2Proof.Tests

open Sys2Proof Sys2Proof.Machine

/-! ### Building small states -/

/-- The reset state with other registers, written as spec/95_test_vectors.md writes a state. -/
def regs (ss : SState) (ph : Nat) (fs : FState) (a c : Field) (bi : BitVec 5) : State :=
  { State.reset with sstate := ss, pendingHigh := ph, fstate := fs, address := a, command := c, bitIndex := bi }

/-- The state with a step's outputs. -/
def put (cmd : Option Byte) (diag : Event) (sym : SymResult) (s : State) : State :=
  { s with out := ⟨cmd, diag, sym⟩ }

/-- The default configuration under the policy `Continue`. -/
def continueCfg : Config := { Config.default with addrFailPolicy := .continueOn }

/-- The configuration of V-C27. -/
def otherCfg : Config :=
  { Config.default with
    unitPeriod := 1, leaderHigh := 4, leaderLow := 2, data0High := 1, data0Low := 1, data1High := 1, data1Low := 2 }

/-! ### Well-formedness: each check refuses -/

theorem test_default_config_admitted : Config.default.Admitted := by decide
theorem test_ill_formed_durW :
    ¬ { Config.default with durW := 0, unitPeriod := 0 }.WellFormed := by decide
theorem test_ill_formed_pcW : ¬ { Config.default with
    pcW := 0, leaderHigh := 0, leaderLow := 0, data0High := 0, data0Low := 0, data1High := 0,
    data1Low := 0 }.WellFormed := by decide
theorem test_ill_formed_unitPeriod_zero : ¬ { Config.default with unitPeriod := 0 }.WellFormed := by decide
theorem test_ill_formed_unitPeriod_wide :
    ¬ { Config.default with unitPeriod := 4294967296 }.WellFormed := by decide
theorem test_ill_formed_leaderHigh : ¬ { Config.default with leaderHigh := 256 }.WellFormed := by decide
theorem test_ill_formed_leaderLow : ¬ { Config.default with leaderLow := 256 }.WellFormed := by decide
theorem test_ill_formed_data0High : ¬ { Config.default with data0High := 256 }.WellFormed := by decide
theorem test_ill_formed_data0Low : ¬ { Config.default with data0Low := 256 }.WellFormed := by decide
theorem test_ill_formed_data1High : ¬ { Config.default with data1High := 256 }.WellFormed := by decide
theorem test_ill_formed_data1Low : ¬ { Config.default with data1Low := 256 }.WellFormed := by decide
theorem test_split_data_high_not_admitted : ¬ { Config.default with data1High := 2 }.Admitted := by decide
theorem test_split_data_high_admitted :
    { Config.default with data1High := 2, allowSplitDataHigh := true }.Admitted := by decide
theorem test_ill_formed_obsH : (Instr.obsH 4294967296).wellFormed 32 = false := by decide
theorem test_ill_formed_obsL : (Instr.obsL 4294967296).wellFormed 32 = false := by decide
theorem test_ill_formed_symClassifyH : (Instr.symClassifyH 4294967296).wellFormed 32 = false := by decide
theorem test_ill_formed_symClassifyL : (Instr.symClassifyL 4294967296).wellFormed 32 = false := by decide

/-! ### Decoding: words written out bit by bit, `srst valid level` and then the 32 bits of the duration -/

/-- V-T, canonical `RESET`. -/
theorem test_decode_reset :
    decode .top 32 0b1_0_0_00000000000000000000000000000000 = .ok .reset := by rfl
/-- V-T: `srst` wins, the observation beside it is dropped. -/
theorem test_decode_reset_drops_observation :
    decode .top 32 0b1_1_1_00000000000000000010001100000000 = .ok .reset := by rfl
/-- V-T, `H 8960`. -/
theorem test_decode_obsH :
    decode .top 32 0b0_1_1_00000000000000000010001100000000 = .ok (.obsH 8960) := by rfl
/-- V-T, `L 40000`. -/
theorem test_decode_obsL :
    decode .top 32 0b0_1_0_00000000000000001001110001000000 = .ok (.obsL 40000) := by rfl
/-- V-T: `level` and `duration` ignored. -/
theorem test_decode_nop :
    decode .top 32 0b0_0_1_00000000000000000010001100000000 = .ok .nop := by rfl
/-- 30_encoding.md R53. -/
theorem test_decode_symReset :
    decode .sym 32 0b1_0_0_00000000000000000000000000000000 = .ok .symReset := by rfl
/-- 30_encoding.md R53, at the largest duration. -/
theorem test_decode_symClassifyH :
    decode .sym 32 0b0_1_1_11111111111111111111111111111111 = .ok (.symClassifyH 4294967295) := by rfl
/-- 30_encoding.md R53. -/
theorem test_decode_symClassifyL :
    decode .sym 32 0b0_1_0_00000000000000000000011010010000 = .ok (.symClassifyL 1680) := by rfl
/-- 30_encoding.md R53, with ignored bits set. -/
theorem test_decode_symNop :
    decode .sym 32 0b0_0_1_00000000000000000000000000000001 = .ok .symNop := by rfl
/-- A number of 36 bits is no transaction word. -/
theorem test_decode_too_wide :
    decode .top 32 0b1_0_1_1_00000000000000000010001100000000 = .error .notATransactionWord := by rfl
/-- 30_encoding.md R56. -/
theorem test_encode_canonical :
    encode 32 (.obsH 8960) = 0x300002300 ∧ encode 32 (.obsL 4480) = 0x200001180 ∧
      encode 32 .reset = 0x400000000 ∧ encode 32 .nop = 0 := by decide
/-- The host's two readings of an opcode-table word. -/
theorem test_table_word :
    decodeTableWord 35 0x300002300 = some (.obsH 8960) ∧
      step (State.reset.withFetchWord 40 0x300002300) =
        .next (put none .noEvent .pending (regs .waitLow 16 .parsingLeader 0 0 0)) := ⟨rfl, rfl⟩

/-! ### The timing comparator: V-P -/

theorem test_pulse_count_560 :
    [0, 279, 280, 560, 839, 840, 1399, 1400, 1680, 1690, 1959, 1960, 2250, 4480, 4500, 8679, 8680, 8960, 9000, 9239,
      9240, 4294967295].map (pulseCount Config.default) =
    [0, 0, 1, 1, 1, 2, 2, 3, 3, 3, 3, 4, 4, 8, 8, 15, 16, 16, 16, 16, 17, 7669584] := by decide
theorem test_pulse_count_odd :
    [0, 1, 2, 3, 4, 5, 6, 7, 8].map (pulseCount { Config.default with unitPeriod := 3 }) =
      [0, 0, 1, 1, 1, 2, 2, 2, 3] ∧
    [280, 281, 841, 842].map (pulseCount { Config.default with unitPeriod := 561 }) = [0, 1, 1, 2] := by decide

/-! ### The output word: the `OW` column of V-F and of P1 to P3 -/

theorem test_output_word :
    outputWord ⟨some 0x5A#8, .noEvent, .data1⟩ = 0x5684#15 ∧
    outputWord ⟨some 0x00#8, .noEvent, .data1⟩ = 0x4004#15 ∧
    outputWord ⟨some 0xFF#8, .noEvent, .data0⟩ = 0x7FC3#15 ∧
    outputWord ⟨some 0xA2#8, .noEvent, .data0⟩ = 0x6883#15 ∧
    outputWord ⟨none, .cmdCheckFail, .data0⟩ = 0x0023#15 ∧
    outputWord ⟨none, .addrCheckFail, .data1⟩ = 0x001C#15 ∧
    outputWord ⟨none, .sequenceViolation, .leader⟩ = 0x0012#15 ∧
    outputWord ⟨none, .timingMismatch, .none⟩ = 0x0009#15 := by decide

/-! ### One step of each transaction -/

/-- V-F12. -/
theorem test_obsH_accepted :
    exec (.obsH 560) (regs .waitHigh 0 .parsingCommand 0xFF00 0x005A 8) =
      .next (put none .noEvent .pending (regs .waitLow 1 .parsingCommand 0xFF00 0x005A 8)) := by rfl
/-- V-F10c: a bad high segment alone restarts the frame. -/
theorem test_obsH_rejected :
    exec (.obsH 1120) (regs .waitHigh 0 .parsingAddress 0x0100 0 9) =
      .next (put none .timingMismatch .none (regs .waitHigh 0 .parsingLeader 0 0 0)) := by rfl
/-- V-F14: the byte is emitted in the step of the last bit. -/
theorem test_obsL_emits :
    exec (.obsL 1680) (regs .waitLow 1 .parsingCommand 0xFF00 0x255A 15) =
      .next (put (some 0x5A) .noEvent .data1 (regs .waitHigh 0 .parsingLeader 0 0 0)) := by rfl
/-- V-F6: an address bit above the low byte. -/
theorem test_obsL_stores :
    exec (.obsL 1680) (regs .waitLow 1 .parsingAddress 0x0000 0 8) =
      .next (put none .noEvent .data1 (regs .waitHigh 0 .parsingAddress 0x0100 0 9)) := by rfl
/-- V-F18. -/
theorem test_reset :
    exec .reset (regs .waitLow 1 .parsingCommand 0xFF00 0x005A 7) =
      .next (put none .noEvent .pending (regs .waitHigh 0 .parsingLeader 0 0 0)) := by rfl
/-- V-T, the dropped observation. -/
theorem test_reset_drops_observation :
    step (State.reset.withFetchWord 40 0x700002300) = .next State.reset := by rfl
/-- 42_port_operations.md R114. -/
theorem test_nop :
    exec .nop (regs .waitLow 1 .parsingCommand 0xFF00 0x005A 7) =
      .next (put none .noEvent .pending (regs .waitLow 1 .parsingCommand 0xFF00 0x005A 7)) := by rfl
/-- V-C22. -/
theorem test_symReset :
    exec .symReset (regs .waitLow 16 .parsingLeader 0 0 0) =
      .next (put none .noEvent .pending (regs .waitHigh 0 .parsingLeader 0 0 0)) := by rfl
/-- V-C3, at the boundary. -/
theorem test_symClassifyH_boundary :
    exec (.symClassifyH 8680) (regs .waitHigh 0 .parsingLeader 0 0 0) =
      .next (put none .noEvent .pending (regs .waitLow 16 .parsingLeader 0 0 0)) := by rfl
/-- V-C21. -/
theorem test_symClassifyH_in_waitLow :
    exec (.symClassifyH 8960) (regs .waitLow 16 .parsingLeader 0 0 0) =
      .next (put none .noEvent .none (regs .waitHigh 0 .parsingLeader 0 0 0)) := by rfl
/-- V-C17. -/
theorem test_symClassifyL_no_profile :
    exec (.symClassifyL 2250) (regs .waitLow 16 .parsingLeader 0 0 0) =
      .next (put none .noEvent .none (regs .waitHigh 0 .parsingLeader 0 0 0)) := by rfl
/-- V-C28: another configuration, in which the data low count of a one equals the leader's. -/
theorem test_symClassifyL_other_config :
    exec (.symClassifyL 2) { regs .waitLow 4 .parsingLeader 0 0 0 with cfg := otherCfg } =
      .next (put none .noEvent .leader { regs .waitHigh 0 .parsingLeader 0 0 0 with cfg := otherCfg }) := by rfl
/-- V-C24. -/
theorem test_symNop :
    exec .symNop (regs .waitLow 1 .parsingLeader 0 0 0) =
      .next (put none .noEvent .pending (regs .waitLow 1 .parsingLeader 0 0 0)) := by rfl

/-! ### The frame assembler's other rows -/

/-- V-F4. -/
theorem test_leader_starts_address :
    parse ⟨.low, 4480⟩ (regs .waitLow 16 .parsingLeader 0 0 0) =
      put none .noEvent .leader (regs .waitHigh 0 .parsingAddress 0 0 0) := by decide
/-- V-F7 and V-F7c. -/
theorem test_address_check :
    parse ⟨.low, 1680⟩ (regs .waitLow 1 .parsingAddress 0x7F00 0 15) =
      put none .noEvent .data1 (regs .waitHigh 0 .parsingCommand 0xFF00 0 0) ∧
    parse ⟨.low, 1680⟩ (regs .waitLow 1 .parsingAddress 0x7E01 0 15) =
      put none .addrCheckFail .data1 (regs .waitHigh 0 .parsingLeader 0 0 0) := by decide
/-- V-F7d. -/
theorem test_address_check_continue :
    parse ⟨.low, 1680⟩ { regs .waitLow 1 .parsingAddress 0x7E01 0 15 with cfg := continueCfg } =
      put none .addrCheckFail .data1 { regs .waitHigh 0 .parsingCommand 0xFE01 0 0 with cfg := continueCfg } := by
  decide
/-- V-F15c: the field that the rejected bitwise-AND test would pass. -/
theorem test_command_check :
    parse ⟨.low, 560⟩ (regs .waitLow 1 .parsingCommand 0xFF00 0x0000 15) =
      put none .cmdCheckFail .data0 (regs .waitHigh 0 .parsingLeader 0 0 0) := by decide
/-- V-F11 and V-F17. -/
theorem test_leader_in_a_field :
    parse ⟨.low, 4480⟩ (regs .waitLow 16 .parsingAddress 0x0000 0 8) =
      put none .sequenceViolation .leader (regs .waitHigh 0 .parsingLeader 0 0 0) ∧
    parse ⟨.low, 4480⟩ (regs .waitLow 16 .parsingCommand 0xFF00 0x005A 8) =
      put none .sequenceViolation .leader (regs .waitHigh 0 .parsingLeader 0 0 0) := by decide
/-- V-C25 and V-C26: coinciding profiles, the first match wins. -/
theorem test_priority :
    pairClass { Config.default with leaderHigh := 1, leaderLow := 1 } 1 1 = .leader ∧
    pairClass { Config.default with data0Low := 3 } 1 3 = .data0 := by decide
/-- V-C29: a profile count of 0 is an ordinary value. -/
theorem test_zero_count_profile :
    classify ⟨.high, 279⟩ { State.reset with cfg := { Config.default with leaderHigh := 0, leaderLow := 0 } } =
      ({ State.reset with
          cfg := { Config.default with leaderHigh := 0, leaderLow := 0 }, sstate := .waitLow }, .pending) := by
  decide
/-- 30_encoding.md R55: the words of `BIT1`, and the notation `3T-1`. -/
theorem test_pseudo :
    (bitOps Config.default true).map (encode 32) = [0x300000230, 0x200000690] ∧
    (frameOps Config.default 0x00 0xFF 0x5A 0xA5).length = 66 ∧
    lineInstr Config.default (.l (.unitsMinus 3 1)) = some (.obsL 1679) := by decide

/-! ### Witnesses: every statement that has hypotheses is met by concrete values

Each theorem gives values that meet all hypotheses of the statement it is named after, clause by clause where the
statement has several, at the boundary of a range where there is one.
-/

theorem witness_DecodeOfEncodeIsTheTransaction : (Instr.obsH 4294967295).wellFormed 32 = true := by decide

theorem witness_DecodedRowIsTheMatchingTableRow : FitsTxWord 32 0x7FFFFFFFF := by decide

theorem witness_EveryTransactionWordDecodes :
    0x7FFFFFFFF < 2 ^ (3 + 32) ∧ ¬ 0x800000000 < 2 ^ (3 + 32) := by decide

/-- The clauses of the statement are chosen by the three bits, which are free. -/
theorem witness_ControlBitsSelectTheTransaction :
    4294967295 < 2 ^ 32 ∧
      ∀ srst valid level : Bool,
        srst = true ∨ srst = false ∧ valid = true ∧ level = true ∨ srst = false ∧ valid = true ∧ level = false ∨
          srst = false ∧ valid = false := by decide

theorem witness_PulseCountIsRoundToNearest : 1 ≤ Config.default.unitPeriod := by decide

theorem witness_PulseCountLaws :
    1 ≤ Config.default.unitPeriod ∧ 2 * 279 < Config.default.unitPeriod ∧ Config.default.unitPeriod = 2 * 280 ∧
      (1 ≤ 561 ∧ ({ Config.default with unitPeriod := 561 }).unitPeriod = 2 * 280 + 1) ∧
      otherCfg.unitPeriod = 1 := by decide

theorem witness_LongDurationsNeverAlias :
    State.reset.cfg.Admitted ∧ 4294967295 < 2 ^ State.reset.cfg.durW ∧ State.reset.sstate = .waitHigh ∧
      2 ^ State.reset.cfg.pcW ≤ pulseCount State.reset.cfg 4294967295 ∧
      (regs .waitLow 1 .parsingLeader 0 0 0).sstate = .waitLow ∧
      2 ^ State.reset.cfg.pcW ≤ pulseCount State.reset.cfg 143080 ∧
      pulseCount State.reset.cfg 143079 < 2 ^ State.reset.cfg.pcW := by decide

theorem witness_QualifyingHighIsRemembered :
    State.reset.cfg.Admitted ∧ State.reset.sstate = .waitHigh ∧
      IsProfileHigh State.reset.cfg (pulseCount State.reset.cfg 8680) ∧
      IsProfileHigh State.reset.cfg (pulseCount State.reset.cfg 839) := by decide

theorem witness_WaitHighRejectsAnythingElse :
    State.reset.cfg.Admitted ∧ State.reset.sstate = .waitHigh ∧
      (⟨.low, 4480⟩ : Observation).level = .low ∧
      ¬ IsProfileHigh State.reset.cfg (pulseCount State.reset.cfg 8679) := by decide

/-- A state in `WaitLow` in the middle of the command field. -/
def midCommand : State := regs .waitLow 1 .parsingCommand 0xFF00 0x005A 8

/-- A state in `WaitLow` in the middle of the address field. -/
def midAddress : State := regs .waitLow 1 .parsingAddress 0x0100 0 9

theorem witness_HighInWaitLowAborts : midCommand.cfg.Admitted ∧ midCommand.sstate = .waitLow := by decide

/-- The clauses in order: a leader, a zero, a one and a pair of no profile, with the clauses before ruled out. -/
theorem witness_LowInWaitLowClassifiesThePair :
    let c := Config.default
    let isLeader := fun ph d => ph = c.leaderHigh ∧ pulseCount c d = c.leaderLow
    let isData0 := fun ph d => ph = c.data0High ∧ pulseCount c d = c.data0Low
    let isData1 := fun ph d => ph = c.data1High ∧ pulseCount c d = c.data1Low
    midCommand.cfg.Admitted ∧ midCommand.sstate = .waitLow ∧ midCommand.pendingHigh = 1 ∧
      (regs .waitLow 16 .parsingLeader 0 0 0).sstate = .waitLow ∧
      isLeader 16 4759 ∧ (¬ isLeader 1 839 ∧ isData0 1 839) ∧
      (¬ isLeader 1 1400 ∧ ¬ isData0 1 1400 ∧ isData1 1 1400) ∧
      (¬ isLeader 1 1399 ∧ ¬ isData0 1 1399 ∧ ¬ isData1 1 1399) := by decide

theorem witness_ClassifierPortTransitions :
    State.reset.cfg.Admitted ∧ State.reset.sstate = .waitHigh ∧ midCommand.cfg.Admitted ∧
      midCommand.sstate = .waitLow ∧ IsProfileHigh Config.default (pulseCount Config.default 280) ∧
      ¬ IsProfileHigh Config.default (pulseCount Config.default 279) := by decide

theorem witness_SymResetForgetsThePendingHigh : midCommand.cfg.Admitted := by decide

theorem witness_SymNopChangesNoRegister : midCommand.cfg.Admitted := by decide

theorem witness_ClassifierPortLeavesTheFrameAssembler :
    (Instr.symClassifyL 560).port = .sym ∧
      exec (.symClassifyL 560) midCommand =
        .next (put none .noEvent .data0 (regs .waitHigh 0 .parsingCommand 0xFF00 0x005A 8)) := ⟨rfl, rfl⟩

theorem witness_ClassifierInTheBlockIsTheClassifierAlone :
    exec (obsInstr ⟨.low, 1120⟩) midAddress =
        .next (put none .timingMismatch .none (regs .waitHigh 0 .parsingLeader 0 0 0)) ∧
      exec (symInstr ⟨.low, 1120⟩) midAddress =
        .next (put none .noEvent .none (regs .waitHigh 0 .parsingAddress 0x0100 0 9)) := ⟨rfl, rfl⟩

theorem witness_TwoHighsAreNeverBothAccepted :
    exec (obsInstr ⟨.high, 560⟩) State.reset =
        .next (put none .noEvent .pending (regs .waitLow 1 .parsingLeader 0 0 0)) ∧
      exec (obsInstr ⟨.high, 560⟩) (put none .noEvent .pending (regs .waitLow 1 .parsingLeader 0 0 0)) =
        .next (put none .timingMismatch .none State.reset) := ⟨rfl, rfl⟩

theorem witness_ParsingLeaderWaitsForALeader :
    State.reset.cfg.Admitted ∧ (regs .waitLow 16 .parsingLeader 0 0 0).fstate = .parsingLeader ∧
      (classify ⟨.low, 4480⟩ (regs .waitLow 16 .parsingLeader 0 0 0)).2 = .leader ∧
      (classify ⟨.low, 560⟩ (regs .waitLow 16 .parsingLeader 0 0 0)).2 ≠ .leader := by decide

theorem witness_DataSymbolStoresOneBit :
    midAddress.cfg.Admitted ∧
      ((classify ⟨.low, 560⟩ (regs .waitLow 1 .parsingAddress 0 0 0)).2 = dataSymbol false ∧
        (regs .waitLow 1 .parsingAddress 0 0 0).bitIndex.toNat < 15) ∧
      ((classify ⟨.low, 1680⟩ (regs .waitLow 1 .parsingCommand 0xFF00 0x255A 14)).2 = dataSymbol true ∧
        (regs .waitLow 1 .parsingCommand 0xFF00 0x255A 14).bitIndex.toNat < 15) := by decide

/-- One bit before the end of the address. -/
def lastAddressBit (c : Config) : State := { regs .waitLow 1 .parsingAddress 0x7F00 0 15 with cfg := c }

/-- One bit before the end of the command. -/
def lastCommandBit (f : Field) : State := regs .waitLow 1 .parsingCommand 0xFF00 f 15

theorem witness_FullAddressIsValidatedInTheSameStep :
    (lastAddressBit Config.default).cfg.Admitted ∧
      (classify ⟨.low, 1680⟩ (lastAddressBit Config.default)).2 = dataSymbol true ∧
      (classify ⟨.low, 560⟩ (lastAddressBit Config.default)).2 = dataSymbol false ∧
      StoredAt 0x7F00 15 true 0xFF00 ∧ StoredAt 0x7F00 15 false 0x7F00 ∧
      ((0xFF00#16).extractLsb' 0 8 = Config.default.expAddrLow ∧
        (0xFF00#16).extractLsb' 8 8 = Config.default.expAddrHigh) ∧
      ¬ ((0x7F00#16).extractLsb' 0 8 = Config.default.expAddrLow ∧
        (0x7F00#16).extractLsb' 8 8 = Config.default.expAddrHigh) := by decide

theorem witness_AddressFailureFollowsThePolicy :
    (lastAddressBit Config.default).cfg.Admitted ∧ Config.default.addrFailPolicy = .restart ∧
      (lastAddressBit continueCfg).cfg.Admitted ∧ continueCfg.addrFailPolicy = .continueOn ∧
      (classify ⟨.low, 560⟩ (lastAddressBit Config.default)).2 = dataSymbol false ∧
      (classify ⟨.low, 560⟩ (lastAddressBit continueCfg)).2 = dataSymbol false ∧
      StoredAt 0x7F00 15 false 0x7F00 ∧ (0x7F00#16).extractLsb' 8 8 ≠ Config.default.expAddrHigh := by decide

theorem witness_ComplementPairEmitsItsLowByte :
    (lastCommandBit 0x255A).cfg.Admitted ∧
      (classify ⟨.low, 1680⟩ (lastCommandBit 0x255A)).2 = dataSymbol true ∧ StoredAt 0x255A 15 true 0xA55A ∧
      (0xA55A#16).extractLsb' 0 8 = ~~~((0xA55A#16).extractLsb' 8 8) := by decide

theorem witness_OtherCommandPairsEmitNothing :
    (lastCommandBit 0x5A5A).cfg.Admitted ∧
      (classify ⟨.low, 560⟩ (lastCommandBit 0x5A5A)).2 = dataSymbol false ∧ StoredAt 0x5A5A 15 false 0x5A5A ∧
      (0x5A5A#16).extractLsb' 0 8 = (0x5A5A#16).extractLsb' 8 8 ∧
      StoredAt 0x255A 15 false 0x255A ∧ (0x255A#16).extractLsb' 0 8 ≠ ~~~((0x255A#16).extractLsb' 8 8) := by decide

theorem witness_InvalidSymbolInAFieldRestarts :
    midAddress.cfg.Admitted ∧ midAddress.fstate ≠ .parsingLeader ∧
      (classify ⟨.low, 4480⟩ (regs .waitLow 16 .parsingAddress 0x0100 0 9)).2 = .leader ∧
      (classify ⟨.low, 1120⟩ midAddress).2 = .none := by decide

/-- The four causes in order, the first in `ParsingLeader` and the last in a field. -/
theorem witness_TimingMismatchHasFourCauses :
    (∃ t, exec (obsInstr ⟨.high, 8679⟩) State.reset = .next t ∧ t.out.diag = .timingMismatch) ∧
      (∃ t, exec (obsInstr ⟨.low, 4480⟩) State.reset = .next t ∧ t.out.diag = .timingMismatch) ∧
      (∃ t, exec (obsInstr ⟨.high, 560⟩) midAddress = .next t ∧ t.out.diag = .timingMismatch) ∧
      (∃ t, exec (obsInstr ⟨.low, 1399⟩) midAddress = .next t ∧ t.out.diag = .timingMismatch) :=
  ⟨⟨_, rfl, rfl⟩, ⟨_, rfl, rfl⟩, ⟨_, rfl, rfl⟩, ⟨_, rfl, rfl⟩⟩

theorem witness_OnlyALeaderInAFieldIsASequenceViolation :
    midCommand.cfg.Admitted ∧
      (classify ⟨.low, 4480⟩ (regs .waitLow 16 .parsingCommand 0xFF00 0x005A 8)).2 = .leader ∧
      (classify ⟨.low, 560⟩ (regs .waitLow 1 .parsingLeader 0 0 0)).2 = .data0 ∧
      (classify ⟨.low, 1680⟩ (regs .waitLow 1 .parsingLeader 0 0 0)).2 = .data1 ∧
      (parse ⟨.low, 4480⟩ (regs .waitLow 16 .parsingCommand 0xFF00 0x005A 8)).out.diag = .sequenceViolation := by
  decide

theorem witness_PendingTouchesNoFrameRegister :
    State.reset.cfg.Admitted ∧ (classify ⟨.high, 839⟩ (regs .waitHigh 0 .parsingAddress 0x0100 0 9)).2 = .pending := by
  decide

/-- In order: the premises of the clauses for the leader state, for a field that goes on, and for the two fields. -/
theorem witness_ObservationFrame :
    (∃ t, exec (obsInstr ⟨.low, 40000⟩) State.reset = .next t ∧ t.out.sym ≠ .leader) ∧
      (∃ t, exec (obsInstr ⟨.low, 560⟩) midAddress = .next t ∧ t.fstate = .parsingAddress) ∧
      (∃ t, exec (obsInstr ⟨.low, 1680⟩) (lastAddressBit Config.default) = .next t ∧ t.fstate = .parsingCommand) ∧
      (∃ t, exec (obsInstr ⟨.low, 560⟩) midCommand = .next t ∧ t.fstate = .parsingCommand) :=
  ⟨⟨_, rfl, by decide⟩, ⟨_, rfl, by decide⟩, ⟨_, rfl, by decide⟩, ⟨_, rfl, by decide⟩⟩

theorem witness_HighObservationNeverCompletesASymbol : State.reset.cfg.Admitted ∧ midCommand.cfg.Admitted := by decide

theorem witness_LowObservationAlwaysEndsThePair :
    State.reset.cfg.Admitted ∧ State.reset.sstate = .waitHigh ∧ midCommand.cfg.Admitted := by decide

theorem witness_ResetForcesTheResetState : midCommand.cfg.Admitted := by decide

theorem witness_NopChangesNoRegister : midCommand.cfg.Admitted := by decide

theorem witness_ByteIsEmittedOnlyForAValidCommand :
    ∃ t, exec (.obsL 560) (lastCommandBit 0x00FF) = .next t ∧ t.out.cmd = some 0xFF := ⟨_, rfl, rfl⟩

/-- A step with each event, and a transaction that is no observation. -/
theorem witness_EventsAreReportedExactlyWhen :
    (∃ t, exec (obsInstr ⟨.low, 1120⟩) midAddress = .next t ∧ t.out.diag = .timingMismatch) ∧
      (∃ t, exec (obsInstr ⟨.low, 4480⟩) (regs .waitLow 16 .parsingAddress 0 0 8) = .next t ∧
        t.out.diag = .sequenceViolation) ∧
      (∃ t, exec (obsInstr ⟨.low, 560⟩) (lastAddressBit Config.default) = .next t ∧ t.out.diag = .addrCheckFail) ∧
      (∃ t, exec (obsInstr ⟨.low, 560⟩) (lastCommandBit 0x5A5A) = .next t ∧ t.out.diag = .cmdCheckFail) ∧
      (∀ o, Instr.nop ≠ obsInstr o) ∧ (∃ t, exec .nop midAddress = .next t) :=
  ⟨⟨_, rfl, rfl⟩, ⟨_, rfl, rfl⟩, ⟨_, rfl, rfl⟩, ⟨_, rfl, rfl⟩,
    fun o => by rcases o with ⟨l, d⟩; cases l <;> exact nofun, ⟨_, rfl⟩⟩

theorem witness_EventInAFieldEndsInTheResetState :
    midAddress.fstate ≠ .parsingLeader ∧
      (∃ t, exec (obsInstr ⟨.low, 1120⟩) midAddress = .next t ∧ t.out.diag ≠ .noEvent) ∧
      (∃ t, exec (obsInstr ⟨.low, 560⟩) (lastAddressBit continueCfg) = .next t ∧ t.out.diag ≠ .noEvent ∧
        t.fstate = .parsingCommand) :=
  ⟨by decide, ⟨_, rfl, by decide⟩, ⟨_, rfl, by decide, rfl⟩⟩

theorem witness_ReturnToLeaderSeekingIsAFullReset :
    ∃ t, exec (.obsL 1680) (lastCommandBit 0x255A) = .next t ∧ (lastCommandBit 0x255A).fstate ≠ .parsingLeader ∧
      t.fstate = .parsingLeader := ⟨_, rfl, by decide, rfl⟩

theorem witness_FrameStateMovesAlongTheDiagram :
    ∃ t, exec (.obsL 1680) (lastAddressBit Config.default) = .next t ∧ t.fstate ≠ .parsingAddress := ⟨_, rfl, by decide⟩

theorem witness_StepKeepsTheConfiguration :
    ∃ t, step (midCommand.withFetchWord 35 0x200000230) = .next t ∧
      (midCommand.withFetchWord 35 0x200000230).input ≠ [] := ⟨_, rfl, by decide⟩

theorem witness_RefusedConfigurationsTakeNoStep :
    ¬ { Config.default with unitPeriod := 0 }.WellFormed ∧
      { Config.default with data1High := 2 }.WellFormed ∧
      { Config.default with data1High := 2 }.data0High ≠ { Config.default with data1High := 2 }.data1High ∧
      { Config.default with data1High := 2 }.allowSplitDataHigh = false := by decide

theorem witness_StepRunsTheDecodedTransaction :
    midCommand.cfg.Admitted ∧ (midCommand.withFetchWord 35 0x200000230).input = ⟨false, 0x200000230⟩ :: [] ∧
      decode .top 32 0x200000230 = .ok (.obsL 560) := ⟨by decide, rfl, rfl⟩

theorem witness_NothingPresentedNothingChanges : midCommand.cfg.Admitted ∧ midCommand.input = [] := by decide

theorem witness_HardwareResetWinsOverEverything :
    midCommand.cfg.Admitted ∧
      { midCommand with input := [⟨true, 0x800000000⟩] }.input = ⟨true, 0x800000000⟩ :: [] := by decide

theorem witness_InvariantsHoldAfterReset : Config.default.Admitted ∧ continueCfg.Admitted ∧ otherCfg.Admitted := by
  decide

/-- A state in the middle of the command field meets the invariants, and its step runs. -/
theorem witness_EveryStepKeepsTheInvariants :
    (midCommand.withFetchWord 35 0x200000690).Inv ∧
      step (midCommand.withFetchWord 35 0x200000690) =
        .next (put none .noEvent .data1 (regs .waitHigh 0 .parsingCommand 0xFF00 0x015A 9)) :=
  ⟨⟨by decide, by decide, by decide, by decide, by decide, by decide, by decide, by decide⟩, rfl⟩

theorem witness_BlockNeverHalts :
    midCommand.cfg.Admitted ∧
      { midCommand with input := [⟨false, 0x7FFFFFFFF⟩, ⟨true, 0x800000000⟩] }.InputFits := by decide

theorem witness_InstancesDoNotInfluenceEachOther :
    stepInstance 1 [State.reset, midCommand.withFetchWord 35 0x200000690] =
      some (.next [State.reset, put none .noEvent .data1 (regs .waitHigh 0 .parsingCommand 0xFF00 0x015A 9)]) := rfl

/-! Frames: durations at both ends of the interval that rounds to each count (V-P). -/

/-- The pair of a bit: 280 and 839 are the ends of one unit, 1400 and 1959 those of three. -/
def jitterPair (b : Bool) : Nat × Nat := if b then (839, 1959) else (280, 839)

/-- The 33 pairs of a frame, its leader at the ends of 16 and 8 units. -/
def jitterFrame (a0 a1 c0 c1 : Byte) : List (Nat × Nat) :=
  (8680, 4759) :: (fieldBits a0 a1 ++ fieldBits c0 c1).map jitterPair

/-- A state that is given a frame. -/
def givenFrame (c : Config) (a0 a1 c0 c1 : Byte) : State :=
  State.construct c .top (presentAll c.durW (pairObservations (jitterFrame a0 a1 c0 c1)) ++ [⟨false, 0⟩])

theorem jitterFrame_carries (c : Config) (a0 a1 c0 c1 : Byte) (hl : CarriesLeader c (8680, 4759))
    (hb : ∀ b, CarriesBit c b (jitterPair b)) : CarriesFrame c a0 a1 c0 c1 (jitterFrame a0 a1 c0 c1) := by
  refine ⟨_, _, rfl, hl, ?_⟩
  rw [List.forall₂_map_right_iff, List.forall₂_same]
  exact fun b _ => hb b

theorem jitterFrame_durations (a0 a1 c0 c1 : Byte) :
    ∀ p ∈ jitterFrame a0 a1 c0 c1, p.1 < 2 ^ 32 ∧ p.2 < 2 ^ 32 := by
  intro p hp
  rcases List.mem_cons.1 hp with rfl | hp
  · decide
  · obtain ⟨b, _, rfl⟩ := List.mem_map.1 hp
    cases b <;> decide

theorem witness_ValidFrameEmitsItsCommandOnce :
    let s := givenFrame Config.default 0x00 0xFF 0x5A 0xA5
    s.cfg.Admitted ∧ ProfilesDistinct s.cfg ∧ s.port = .top ∧ s.fstate = .parsingLeader ∧ s.sstate = .waitHigh ∧
      CarriesFrame s.cfg s.cfg.expAddrLow s.cfg.expAddrHigh 0x5A (~~~0x5A) (jitterFrame 0x00 0xFF 0x5A 0xA5) ∧
      (∀ p ∈ jitterFrame 0x00 0xFF 0x5A 0xA5, p.1 < 2 ^ s.cfg.durW ∧ p.2 < 2 ^ s.cfg.durW) ∧
      s.input = presentAll s.cfg.durW (pairObservations (jitterFrame 0x00 0xFF 0x5A 0xA5)) ++ [⟨false, 0⟩] :=
  ⟨by decide, by decide, rfl, rfl, rfl, jitterFrame_carries _ _ _ _ _ (by decide) (by decide),
    jitterFrame_durations _ _ _ _, rfl⟩

theorem witness_NominalFrameDecodes :
    let s := State.construct Config.default .top (presentAll 32 (necFrameOps Config.default 0xA2) ++ [])
    s.cfg.Admitted ∧ ProfilesDistinct s.cfg ∧ s.port = .top ∧ s.fstate = .parsingLeader ∧ s.sstate = .waitHigh ∧
      (∀ i ∈ necFrameOps s.cfg 0xA2, i.wellFormed s.cfg.durW = true) ∧
      s.input = presentAll s.cfg.durW (necFrameOps s.cfg 0xA2) ++ [] :=
  ⟨by decide, by decide, rfl, rfl, rfl, by decide, rfl⟩

theorem witness_WrongAddressFrameIsDroppedWhole :
    let s := givenFrame Config.default 0x01 0xFE 0x5A 0xA5
    s.cfg.Admitted ∧ ProfilesDistinct s.cfg ∧ s.port = .top ∧ s.cfg.addrFailPolicy = .restart ∧
      s.fstate = .parsingLeader ∧ s.sstate = .waitHigh ∧
      ¬ (0x01#8 = s.cfg.expAddrLow ∧ 0xFE#8 = s.cfg.expAddrHigh) ∧
      CarriesFrame s.cfg 0x01 0xFE 0x5A 0xA5 (jitterFrame 0x01 0xFE 0x5A 0xA5) ∧
      (∀ p ∈ jitterFrame 0x01 0xFE 0x5A 0xA5, p.1 < 2 ^ s.cfg.durW ∧ p.2 < 2 ^ s.cfg.durW) ∧
      s.input = presentAll s.cfg.durW (pairObservations (jitterFrame 0x01 0xFE 0x5A 0xA5)) ++ [⟨false, 0⟩] :=
  ⟨by decide, by decide, rfl, rfl, rfl, rfl, by decide, jitterFrame_carries _ _ _ _ _ (by decide) (by decide),
    jitterFrame_durations _ _ _ _, rfl⟩

theorem witness_ContinuePolicyDecodesDespiteTheAddress :
    let s := givenFrame continueCfg 0x01 0xFE 0x5A 0xA5
    s.cfg.Admitted ∧ ProfilesDistinct s.cfg ∧ s.port = .top ∧ s.cfg.addrFailPolicy = .continueOn ∧
      s.fstate = .parsingLeader ∧ s.sstate = .waitHigh ∧
      ¬ (0x01#8 = s.cfg.expAddrLow ∧ 0xFE#8 = s.cfg.expAddrHigh) ∧
      CarriesFrame s.cfg 0x01 0xFE 0x5A (~~~0x5A) (jitterFrame 0x01 0xFE 0x5A 0xA5) ∧
      (∀ p ∈ jitterFrame 0x01 0xFE 0x5A 0xA5, p.1 < 2 ^ s.cfg.durW ∧ p.2 < 2 ^ s.cfg.durW) ∧
      s.input = presentAll s.cfg.durW (pairObservations (jitterFrame 0x01 0xFE 0x5A 0xA5)) ++ [⟨false, 0⟩] :=
  ⟨by decide, by decide, rfl, rfl, rfl, rfl, by decide, jitterFrame_carries _ _ _ _ _ (by decide) (by decide),
    jitterFrame_durations _ _ _ _, rfl⟩

theorem witness_BadCommandPairFrameEmitsNothing :
    let s := givenFrame Config.default 0x00 0xFF 0x5A 0x5A
    s.cfg.Admitted ∧ ProfilesDistinct s.cfg ∧ s.port = .top ∧ s.fstate = .parsingLeader ∧ s.sstate = .waitHigh ∧
      0x5A#8 ≠ ~~~0x5A#8 ∧
      CarriesFrame s.cfg s.cfg.expAddrLow s.cfg.expAddrHigh 0x5A 0x5A (jitterFrame 0x00 0xFF 0x5A 0x5A) ∧
      (∀ p ∈ jitterFrame 0x00 0xFF 0x5A 0x5A, p.1 < 2 ^ s.cfg.durW ∧ p.2 < 2 ^ s.cfg.durW) ∧
      s.input = presentAll s.cfg.durW (pairObservations (jitterFrame 0x00 0xFF 0x5A 0x5A)) ++ [⟨false, 0⟩] :=
  ⟨by decide, by decide, rfl, rfl, rfl, by decide, jitterFrame_carries _ _ _ _ _ (by decide) (by decide),
    jitterFrame_durations _ _ _ _, rfl⟩

/-- The state before the violation, the word that raises it, and the frame that follows. -/
def violationThenFrame (s : State) (w : TxWord) : State :=
  { s with input := wordCycle w :: (givenFrame Config.default 0x00 0xFF 0x5A 0xA5).input }

/-- P3's violation, a noise pair, P4's failed command check and P2's failed address check, each followed by a frame. -/
theorem witness_NextFrameAfterAViolationDecodes :
    ProfilesDistinct Config.default ∧
      (∀ x ∈ [(regs .waitLow 16 .parsingAddress 0 0 8, 0x200001180, Event.sequenceViolation),
              (midAddress, 0x200000460, Event.timingMismatch),
              (lastCommandBit 0x5A5A, 0x200000230, Event.cmdCheckFail),
              (regs .waitLow 1 .parsingAddress 0x7E01 0 15, 0x200000690, Event.addrCheckFail)],
        x.1.cfg = Config.default ∧ x.1.cfg.addrFailPolicy = .restart ∧ x.1.port = .top ∧ x.1.fstate ≠ .parsingLeader ∧
          ∃ t, step (violationThenFrame x.1 x.2.1) = .next t ∧ t.out.diag = x.2.2 ∧
            t.input = presentAll 32 (pairObservations (jitterFrame 0x00 0xFF 0x5A 0xA5)) ++ [⟨false, 0⟩]) ∧
      CarriesFrame Config.default 0x00 0xFF 0x5A (~~~0x5A) (jitterFrame 0x00 0xFF 0x5A 0xA5) ∧
      (∀ p ∈ jitterFrame 0x00 0xFF 0x5A 0xA5, p.1 < 2 ^ 32 ∧ p.2 < 2 ^ 32) := by
  refine ⟨by decide, ?_, jitterFrame_carries _ _ _ _ _ (by decide) (by decide), jitterFrame_durations _ _ _ _⟩
  intro x hx
  simp only [List.mem_cons, List.not_mem_nil, or_false] at hx
  rcases hx with rfl | rfl | rfl | rfl
  all_goals exact ⟨rfl, rfl, rfl, by decide, _, rfl, rfl, rfl⟩

/-- A leader pair, in two steps from the reset state. -/
theorem witness_NoByteInFewerThan66Steps :
    2 < 66 ∧ State.reset.RegistersReset ∧
      ∃ os t, trace 2 (State.construct Config.default .top [wordCycle 0x300002300, wordCycle 0x200001180]) =
        some (os, t) ∧ t.fstate = .parsingAddress := ⟨by decide, by decide, _, _, rfl, rfl⟩

/-- A pair with a `NOP` between its halves. -/
theorem witness_NopsAreInvisible :
    (∀ i ∈ [Instr.obsH 560, .nop, .obsL 560], i.port = .top ∧ i.wellFormed State.reset.cfg.durW = true) ∧
      (∃ os t, trace 3 { State.reset with input := presentAll 32 [.obsH 560, .nop, .obsL 560] } = some (os, t)) ∧
      (∃ os t, trace 2 { State.reset with input := presentAll 32 [.obsH 560, .obsL 560] } = some (os, t)) ∧
      [Instr.obsH 560, .nop, .obsL 560].filter (· ≠ .nop) = [.obsH 560, .obsL 560] :=
  ⟨by decide, ⟨_, _, rfl⟩, ⟨_, _, rfl⟩, by decide⟩

end Sys2Proof.Tests
end

namespace Sys2Proof.Machine

/-- Settles O43: each of the three things a step can be ends in an effect, a hardware reset in that of `RESET`, and no
effect writes the configuration, the port or the input; the fetch took the head of the input off before it. -/
theorem stepKeepsTheConfiguration : Obligations.StepKeepsTheConfiguration := by
  intro s t h
  obtain ⟨-, ⟨hnil, rfl⟩ | ⟨c, cs, hcons, -, rfl⟩ | ⟨c, cs, i, hcons, -, -, rfl⟩⟩ := step_cases h
  · have hkeep := effect_keeps (idleInstr s.port) s
    simpa [hnil] using hkeep
  · rw [hcons]
    exact effect_keeps .reset { s with input := cs }
  · rw [hcons]
    exact effect_keeps i { s with input := cs }

end Sys2Proof.Machine

namespace Sys2Proof.Machine

section Invariants

variable {s t : State} {o : Observation}

/-! ### The invariants of 10_state.md R17 and each operation of a step

One lemma for each operation; the step lemma only puts them together along the rows of the transition table. -/

theorem frameReset_registersReset (s : State) : (frameReset s).RegistersReset := enterLeader_registersReset s

theorem inv_of_registersReset (ha : t.cfg.Admitted) (hr : t.RegistersReset) : t.Inv := by
  obtain ⟨hsstate, hmemo, hfstate, haddress, hcommand, hindex⟩ := hr
  exact {
    admitted := ha
    leaderClear := fun _ => ⟨haddress, hcommand, hindex⟩
    indexBound := by simp [hindex]
    addressPartial := by simp [hfstate]
    commandPartial := by simp [hfstate]
    memoClear := fun _ => hmemo
    memoProfile := by simp [hsstate]
    addressChecked := by simp [hfstate] }

/-- The outputs and the input to come are no part of the invariants. -/
theorem inv_withPorts (h : s.Inv) (x : Output) (cs : List Cycle) : { s with out := x, input := cs }.Inv :=
  ⟨h.admitted, h.leaderClear, h.indexBound, h.addressPartial, h.commandPartial, h.memoClear, h.memoProfile,
    h.addressChecked⟩

theorem inv_startOutputs (h : s.Inv) (y : SymResult) : (startOutputs y s).Inv := inv_withPorts h _ s.input

theorem inv_quietOutputs (h : s.Inv) (y : SymResult) : (quietOutputs y s).Inv := inv_withPorts h _ s.input

theorem inv_symReset (h : s.Inv) : (symReset s).Inv :=
  { h with memoClear := fun _ => rfl, memoProfile := nofun }

/-- The memo holds one of the profile counts because a qualifying count is stored whole (R65). -/
theorem inv_acceptHigh {pc : Nat} (h : s.Inv) (hm : highMatch s.cfg pc = true) : (acceptHigh pc s).1.Inv :=
  { h with
    memoClear := nofun
    memoProfile := fun _ => by
      simpa [acceptHigh, storedCount_of_highMatch h.admitted hm] using highMatch_iff.1 hm }

theorem inv_classify (h : s.Inv) : (classify o s).1.Inv := by
  rcases classify_cases o s with ⟨_, _, hm, e⟩ | ⟨_, _, e⟩ | ⟨_, _, e⟩ | ⟨_, _, e⟩ <;> rw [e]
  · exact inv_acceptHigh h hm
  all_goals exact inv_symReset h

theorem inv_enterLeader (ha : s.cfg.Admitted) : (enterLeader s).Inv :=
  inv_of_registersReset ha (enterLeader_registersReset s)

theorem inv_takeEvent {e : Event} (ha : s.cfg.Admitted) : (takeEvent e s).Inv :=
  inv_of_registersReset ha (takeEvent_registersReset e s)

/-- `command` is 0 throughout the address because it is 0 while a leader is sought (R82). -/
theorem inv_enterAddress (h : s.Inv) (hf : s.fstate = .parsingLeader) : (enterAddress s).Inv :=
  { h with
    leaderClear := nofun
    indexBound := by simp
    addressPartial := fun _ => ⟨(h.leaderClear hf).2.1, by simp⟩
    commandPartial := nofun
    addressChecked := fun _ => nofun }

/-- The state `u` the command is entered from has its index at 16, so it need not meet the invariants itself. -/
theorem inv_enterCommand {u : State} (h : s.Inv) (hcfg : u.cfg = s.cfg) (hc : SameClassifierRegisters s u)
    (hm : s.cfg.addrFailPolicy = .restart → addressMatches s.cfg u.address = true) : (enterCommand u).Inv := by
  obtain ⟨hsstate, hmemo⟩ := hc
  exact {
    admitted := hcfg ▸ h.admitted
    leaderClear := nofun
    indexBound := by simp
    addressPartial := nofun
    commandPartial := fun _ => by simp
    memoClear := by simpa [hsstate, hmemo] using h.memoClear
    memoProfile := by simpa [hsstate, hmemo, hcfg] using h.memoProfile
    addressChecked := fun hp _ => by
      simpa [hcfg] using addressMatches_iff.1 (hm (by simpa [hcfg] using hp)) }

/-- A store that does not fill the field leaves the index at 15 or below. -/
theorem bitIndex_succ_le_fifteen (h : s.Inv) (hi : s.bitIndex ≠ 15#5) : (s.bitIndex + 1#5).toNat ≤ 15 := by
  have hbound := h.indexBound
  have hne : s.bitIndex.toNat ≠ 15 := fun e => hi (BitVec.eq_of_toNat_eq e)
  rw [bitIndex_succ_toNat hbound]
  omega

theorem inv_storeBit_address (h : s.Inv) (b : Bool) (hf : s.fstate = .parsingAddress) (hi : s.bitIndex ≠ 15#5) :
    (storeBit .address b s).Inv := by
  obtain ⟨hcommand, hpartial⟩ := h.addressPartial hf
  exact { h with
    leaderClear := by simp [hf]
    indexBound := bitIndex_succ_le_fifteen h hi
    addressPartial := fun _ => ⟨hcommand, by
      simpa [bitIndex_succ_toNat h.indexBound] using writeBit_ushiftRight b hpartial⟩
    commandPartial := by simp [hf]
    addressChecked := by simp [hf] }

theorem inv_storeBit_command (h : s.Inv) (b : Bool) (hf : s.fstate = .parsingCommand) (hi : s.bitIndex ≠ 15#5) :
    (storeBit .command b s).Inv :=
  { h with
    leaderClear := by simp [hf]
    indexBound := bitIndex_succ_le_fifteen h hi
    addressPartial := by simp [hf]
    commandPartial := fun _ => by
      simpa [bitIndex_succ_toNat h.indexBound] using writeBit_ushiftRight b (h.commandPartial hf) }

theorem inv_afterData (h : s.Inv) (b : Bool) : (afterData b s).Inv := inv_startOutputs (inv_symReset h) _

/-- Every row of the transition table 41_frame_assembler.md R95 keeps the invariants. -/
theorem inv_of_parseRow (h : s.Inv) (hr : ParseRow o s t) : t.Inv := by
  cases hr with
  | pending _ _ _ hm => exact inv_startOutputs (inv_acceptHigh h hm) _
  | ignored => exact inv_startOutputs (inv_symReset h) _
  | leader hf => exact inv_enterAddress (inv_startOutputs (inv_symReset h) _) hf
  | invalid => exact inv_enterLeader h.admitted
  | sequence => exact inv_takeEvent h.admitted
  | addressBit b hf _ hi => exact inv_storeBit_address (inv_afterData h b) b hf hi
  | addressMatch b _ _ hi hm =>
    exact inv_enterCommand (inv_afterData h b) rfl ⟨rfl, rfl⟩ fun _ => by simpa [hi] using hm
  | addressRestart => exact inv_takeEvent h.admitted
  | addressContinue b _ _ _ _ hp =>
    exact inv_enterCommand (inv_afterData h b) rfl ⟨rfl, rfl⟩ fun hr => absurd (hp.symm.trans hr) nofun
  | commandBit b hf _ hi => exact inv_storeBit_command (inv_afterData h b) b hf hi
  | commandValid => exact inv_enterLeader h.admitted
  | commandInvalid => exact inv_takeEvent h.admitted

theorem inv_parse (h : s.Inv) : (parse o s).Inv := inv_of_parseRow h (parse_row o s)

theorem inv_frameReset (ha : s.cfg.Admitted) : (frameReset s).Inv :=
  inv_of_registersReset ha (frameReset_registersReset s)

theorem inv_effect (h : s.Inv) (i : Instr) : (effect i s).Inv := by
  cases i with
  | reset => exact inv_frameReset h.admitted
  | obsH | obsL => exact inv_parse h
  | nop | symNop => exact inv_quietOutputs h _
  | symReset => exact inv_quietOutputs (inv_symReset h) _
  | symClassifyH | symClassifyL => exact inv_quietOutputs (inv_classify h) _

end Invariants

/-- Settles O50: a step is a cycle without a call, a hardware reset or a transaction, each of which keeps the
invariants, and taking a cycle off the input does not touch them. -/
theorem everyStepKeepsTheInvariants : Obligations.EveryStepKeepsTheInvariants := by
  intro s t h hstep
  obtain ⟨ha, ⟨-, rfl⟩ | ⟨c, cs, -, -, rfl⟩ | ⟨c, cs, i, -, -, -, rfl⟩⟩ := step_cases hstep
  · exact inv_effect h _
  · exact inv_frameReset ha
  · exact inv_effect (inv_withPorts h s.out cs) i

/-- Settles O49: the registers right after construction are those of the reset state. -/
theorem invariantsHoldAfterReset : Obligations.InvariantsHoldAfterReset :=
  fun _ _ _ hc => inv_of_registersReset hc ⟨rfl, rfl, rfl, rfl, rfl, rfl⟩

section Frames

variable {s t : State} {o : Observation}

/-! ### What an observation leaves unchanged, by the state it starts in -/

theorem getLsbD_writeBit_of_ne {f : Field} {i j : Nat} {b : Bool} (hj : j < 16) (hne : j ≠ i) :
    (writeBit f i b).getLsbD j = f.getLsbD j := by
  rw [getLsbD_writeBit f i b hj, if_neg hne]

theorem leaderArm_command (y : SymResult) : (leaderArm y s).command = s.command := by
  cases y <;> rfl

theorem leaderArm_of_ne_leader {y : SymResult} (h : y ≠ .leader) : leaderArm y s = s := by
  cases y with
  | leader => exact absurd rfl h
  | _ => rfl

theorem parse_leader_frame (hf : s.fstate = .parsingLeader) :
    (parse o s).command = s.command ∧ ((parse o s).out.sym ≠ .leader → SameFrameRegisters s (parse o s)) := by
  constructor
  · rw [parse_leader hf, leaderArm_command, startOutputs_command, classify_command]
  · intro hy
    rw [parse_sym] at hy
    rw [parse_leader hf, leaderArm_of_ne_leader hy]
    exact ⟨classify_fstate, classify_address, classify_command, classify_bitIndex⟩

/-- While the address goes on, a row leaves the registers or stores one bit; every other row ends in another state. -/
theorem parseRow_address_frame (hr : ParseRow o s t) (hs : s.fstate = .parsingAddress)
    (ht : t.fstate = .parsingAddress) :
    t.command = s.command ∧ ∀ j < 16, j ≠ s.bitIndex.toNat → t.address.getLsbD j = s.address.getLsbD j := by
  cases hr with
  | pending => exact ⟨rfl, fun _ _ _ => rfl⟩
  | addressBit b => exact ⟨rfl, fun _ hj hne => getLsbD_writeBit_of_ne hj hne⟩
  | _ => simp_all

/-- The address is left for the command only by the store of its bit 15. -/
theorem parseRow_address_to_command (hr : ParseRow o s t) (hs : s.fstate = .parsingAddress)
    (ht : t.fstate = .parsingCommand) : s.bitIndex = 15#5 ∧ ∃ b, t.address = writeBit s.address 15 b := by
  cases hr with
  | addressMatch b _ _ hi => exact ⟨hi, b, by simp [hi]⟩
  | addressContinue b _ _ hi => exact ⟨hi, b, by simp [hi]⟩
  | _ => simp_all

/-- While the command goes on, a row leaves the registers or stores one bit; every other row ends in another state. -/
theorem parseRow_command_frame (hr : ParseRow o s t) (hs : s.fstate = .parsingCommand)
    (ht : t.fstate = .parsingCommand) :
    t.address = s.address ∧ ∀ j < 16, j ≠ s.bitIndex.toNat → t.command.getLsbD j = s.command.getLsbD j := by
  cases hr with
  | pending => exact ⟨rfl, fun _ _ _ => rfl⟩
  | commandBit b => exact ⟨rfl, fun _ hj hne => getLsbD_writeBit_of_ne hj hne⟩
  | _ => simp_all

end Frames

/-- Settles O32, a frame lemma for each state the observation starts in. -/
theorem observationFrame : Obligations.ObservationFrame := by
  intro s t o h
  obtain ⟨-, rfl⟩ := (exec_obsInstr o).1 h
  refine ⟨⟨parse_cfg, parse_port, parse_input⟩, parse_leader_frame, parseRow_address_frame (parse_row o s), ?_,
    parseRow_command_frame (parse_row o s)⟩
  intro hs ht j hj
  obtain ⟨-, b, hb⟩ := parseRow_address_to_command (parse_row o s) hs ht
  rw [hb]
  exact getLsbD_writeBit_of_ne (by omega) (by omega)

section Outputs

variable (s : State) (x : Output)

/-! ### The outputs of the step before are passed over -/

/-- A classification carries the outputs along without looking at them. -/
theorem classify_withOut (o : Observation) :
    classify o { s with out := x } = ({ (classify o s).1 with out := x }, (classify o s).2) := by
  rcases classify_cases o s with ⟨hs, hl, hm, e⟩ | ⟨hs, hn, e⟩ | ⟨hs, hl, e⟩ | ⟨hs, hl, e⟩ <;> rw [e]
  · simp [classify, classifyWaitHigh, acceptHigh, hs, hl, hm]
  · simp only [classify, classifyWaitHigh, hs, if_neg hn]; rfl
  · simp only [classify, classifyWaitLow, hs, hl]; rfl
  · simp only [classify, classifyWaitLow, hs, hl]; rfl

/-- A `parse` sets all three outputs before any arm runs (41_frame_assembler.md R80). -/
theorem parse_withOut (o : Observation) : parse o { s with out := x } = parse o s := by
  unfold parse
  rw [classify_withOut]
  rfl

theorem classifyAlone_withOut (o : Observation) : classifyAlone o { s with out := x } = classifyAlone o s := by
  unfold classifyAlone
  rw [classify_withOut]
  rfl

theorem effect_withOut (i : Instr) : effect i { s with out := x } = effect i s := by
  cases i with
  | reset | nop | symReset | symNop => rfl
  | obsH | obsL => exact parse_withOut s x _
  | symClassifyH | symClassifyL => exact classifyAlone_withOut s x _

end Outputs

/-- Settles O39: a transaction is its effect under the configuration check, and neither reads the outputs. -/
theorem outputsAreNeverRead : Obligations.OutputsAreNeverRead := by
  intro i s x
  simp only [exec_eq_underConfig, underConfig, effect_withOut]

section Moves

variable {s t : State} {o : Observation}

/-- The move of each row of 41_frame_assembler.md R95, as the arrows of R96. -/
theorem parseRow_moves (hr : ParseRow o s t) :
    t.fstate = s.fstate ∨ t.fstate = .parsingLeader ∨
    (s.fstate = .parsingLeader ∧ t.fstate = .parsingAddress ∧ t.out.sym = .leader) ∨
    (s.fstate = .parsingAddress ∧ t.fstate = .parsingCommand ∧ s.bitIndex = 15#5) := by
  cases hr with
  | pending | ignored | addressBit | commandBit => exact .inl rfl
  | invalid | sequence | addressRestart | commandValid | commandInvalid => exact .inr (.inl rfl)
  | leader hf => exact .inr (.inr (.inl ⟨hf, rfl, rfl⟩))
  | addressMatch _ hf _ hi | addressContinue _ hf _ hi => exact .inr (.inr (.inr ⟨hf, rfl, hi⟩))

theorem classifyAlone_fstate : (classifyAlone o s).fstate = s.fstate := by
  rw [classifyAlone, quietOutputs_fstate, classify_fstate]

end Moves

/-- Settles O42: only an observation moves the state forward, along a row of the transition table. -/
theorem frameStateMovesAlongTheDiagram : Obligations.FrameStateMovesAlongTheDiagram := by
  intro i s t h
  obtain ⟨-, rfl⟩ := exec_eq_next.1 h
  cases i with
  | reset => exact .inr (.inl rfl)
  | obsH | obsL => exact parseRow_moves (parse_row _ s)
  | nop | symReset | symNop => exact .inl rfl
  | symClassifyH | symClassifyL => exact .inl classifyAlone_fstate

/-- Every transaction asks for the configuration first (60_exceptions.md R120). -/
theorem exec_refused {s : State} {r : Refusal} (h : configRefusal s.cfg = some r) (i : Instr) :
    exec i s = .refused r := by
  rw [exec_eq_underConfig, underConfig_refused h]

/-- Settles O44: the step and every transaction meet the configuration's refusal before anything else. -/
theorem refusedConfigurationsTakeNoStep : Obligations.RefusedConfigurationsTakeNoStep := by
  intro s
  constructor
  · intro hwf
    have hr := configRefusal_of_not_wellFormed hwf
    exact ⟨step_refused hr, exec_refused hr⟩
  · intro hwf hne hallow
    have hr := configRefusal_of_split hwf (by simp [Config.SplitAdmitted, hne, hallow])
    exact ⟨step_refused hr, exec_refused hr⟩

/-- A step of one of several blocks puts the state its own step leads to in its place. -/
theorem stepInstance_eq_next {k : Nat} {is is' : List State} :
    stepInstance k is = some (.next is') ↔
      ∃ s t, is[k]? = some s ∧ step s = .next t ∧ is' = is.set k t := by
  unfold stepInstance
  cases is[k]? with
  | none => simp
  | some s => cases h : step s <;> simp [h, eq_comm]

/-- Settles O52: one position of the list is set, to the state of that block's own step. -/
theorem instancesDoNotInfluenceEachOther : Obligations.InstancesDoNotInfluenceEachOther := by
  intro k is is' h
  obtain ⟨s, t, hk, hstep, rfl⟩ := stepInstance_eq_next.1 h
  obtain ⟨hlt, -⟩ := List.getElem?_eq_some_iff.1 hk
  exact ⟨⟨s, t, hk, hstep, List.getElem?_set_self hlt⟩, List.length_set,
    fun j hj => List.getElem?_set_ne hj.symm⟩

end Sys2Proof.Machine

namespace Sys2Proof

section Words

variable {durW d : Nat} {a b l : Bool}

/-! ### Reading a word that was put together from its fields -/

theorem decode_top_mkTxWord (hd : d < 2 ^ durW) :
    decode .top durW (mkTxWord durW a b l d) = .ok (decodeTop a b l d) := by
  rw [decode_fits (mkTxWord_fits hd), twSrst_mkTxWord hd, twValid_mkTxWord hd, twLevel_mkTxWord hd,
    twDuration_mkTxWord hd]

theorem decode_sym_mkTxWord (hd : d < 2 ^ durW) :
    decode .sym durW (mkTxWord durW a b l d) = .ok (decodeSym a b l d) := by
  rw [decode_fits (mkTxWord_fits hd), twSrst_mkTxWord hd, twValid_mkTxWord hd, twLevel_mkTxWord hd,
    twDuration_mkTxWord hd]

theorem decode_encode {i : Instr} (h : i.wellFormed durW = true) : decode i.port durW (encode durW i) = .ok i := by
  cases i with
  | reset | nop => exact decode_top_mkTxWord (Nat.two_pow_pos _)
  | obsH | obsL => exact decode_top_mkTxWord (of_decide_eq_true h)
  | symReset | symNop => exact decode_sym_mkTxWord (Nat.two_pow_pos _)
  | symClassifyH | symClassifyL => exact decode_sym_mkTxWord (of_decide_eq_true h)

/-- Every value of the transaction word is put together from its fields (30_encoding.md R41). -/
theorem mkTxWord_fields {w : TxWord} (h : FitsTxWord durW w) :
    mkTxWord durW (twSrst durW w) (twValid durW w) (twLevel durW w) (twDuration durW w) = w := by
  have hbits : ∀ q < 8, (q.testBit 2).toNat * 4 + (q.testBit 1).toNat * 2 + (q.testBit 0).toNat = q := by decide
  have hq : w / 2 ^ durW < 8 := Nat.div_lt_of_lt_mul (by simpa only [FitsTxWord, Nat.pow_add] using h)
  calc mkTxWord durW (twSrst durW w) (twValid durW w) (twLevel durW w) (twDuration durW w)
      = 2 ^ durW * ((twSrst durW w).toNat * 4 + (twValid durW w).toNat * 2 + (twLevel durW w).toNat) +
          w % 2 ^ durW := by unfold mkTxWord twDuration; ring
    _ = 2 ^ durW * (w / 2 ^ durW) + w % 2 ^ durW := by
        rw [← hbits _ hq]
        simp only [Nat.testBit_div_two_pow, twSrst, twValid, twLevel, Nat.add_comm _ durW, Nat.add_zero]
    _ = w := Nat.div_add_mod w _

/-! ### The transaction the control bits select -/

theorem decodeTop_port : (decodeTop a b l d).port = .top := by
  cases a <;> cases b <;> cases l <;> rfl

theorem decodeSym_port : (decodeSym a b l d).port = .sym := by
  cases a <;> cases b <;> cases l <;> rfl

theorem decodeTop_wellFormed (hd : d < 2 ^ durW) : (decodeTop a b l d).wellFormed durW = true := by
  cases a <;> cases b <;> cases l <;> simp [decodeTop, Instr.wellFormed, hd]

theorem decodeSym_wellFormed (hd : d < 2 ^ durW) : (decodeSym a b l d).wellFormed durW = true := by
  cases a <;> cases b <;> cases l <;> simp [decodeSym, Instr.wellFormed, hd]

/-- The duration has no part in which transaction a word is. -/
theorem decodeTop_mnemonic : (decodeTop a b l d).mnemonic = (decodeTop a b l 0).mnemonic := by
  cases a <;> cases b <;> cases l <;> rfl

theorem decodeSym_mnemonic : (decodeSym a b l d).mnemonic = (decodeSym a b l 0).mnemonic := by
  cases a <;> cases b <;> cases l <;> rfl

/-! ### The rows of the opcode table -/

/-- A mask of control bits sees the control bits of a word and nothing of its duration. -/
theorem mkTxWord_and_mask (hd : d < 2 ^ durW) (m : Nat) :
    mkTxWord durW a b l d &&& m * 2 ^ durW = ((a.toNat * 4 + b.toNat * 2 + l.toNat) &&& m) * 2 ^ durW := by
  apply Nat.eq_of_testBit_eq
  intro j
  rw [Nat.testBit_and, Nat.testBit_mul_two_pow, Nat.testBit_mul_two_pow, Nat.testBit_and]
  by_cases hj : durW ≤ j
  · obtain ⟨k, rfl⟩ := Nat.exists_eq_add_of_le hj
    simp [testBit_add_mkTxWord hd]
  · simp [hj]

/-- The masks and patterns of the table speak of the three control bits only. -/
theorem opcodeTable_control_only : ∀ r ∈ opcodeTable,
    r.mask = r.mask / 2 ^ 32 * 2 ^ 32 ∧ r.pattern = r.pattern / 2 ^ 32 * 2 ^ 32 := by decide

theorem matchesWord_mkTxWord (hd : d < 2 ^ 32) {r : OpcodeRow} (hr : r ∈ opcodeTable) :
    r.matchesWord (mkTxWord 32 a b l d) = true ↔
      (a.toNat * 4 + b.toNat * 2 + l.toNat) &&& r.mask / 2 ^ 32 = r.pattern / 2 ^ 32 := by
  obtain ⟨hmask, hpattern⟩ := opcodeTable_control_only r hr
  refine Iff.trans ?_ (Nat.mul_left_inj (Nat.two_pow_pos 32).ne')
  rw [← mkTxWord_and_mask hd, ← hmask, ← hpattern, OpcodeRow.matchesWord, beq_iff_eq]

/-- The row of format TOP that the control bits match is the one they select by R51. -/
theorem topRow_iff : ∀ r ∈ opcodeTable, r.format = .top →
    ((a.toNat * 4 + b.toNat * 2 + l.toNat) &&& r.mask / 2 ^ 32 = r.pattern / 2 ^ 32 ↔
      r.mnemonic = (decodeTop a b l d).mnemonic) := by
  rw [decodeTop_mnemonic]
  revert a b l
  decide

/-- The row of format SYM that the control bits match is the one they select by R53. -/
theorem symRow_iff : ∀ r ∈ opcodeTable, r.format = .sym →
    ((a.toNat * 4 + b.toNat * 2 + l.toNat) &&& r.mask / 2 ^ 32 = r.pattern / 2 ^ 32 ↔
      r.mnemonic = (decodeSym a b l d).mnemonic) := by
  rw [decodeSym_mnemonic]
  revert a b l
  decide

end Words

/-- Settles O1: the canonical word is put together from the fields that the decoder reads back. -/
theorem decodeOfEncodeIsTheTransaction : Obligations.DecodeOfEncodeIsTheTransaction :=
  fun _ _ => decode_encode

/-- Settles O2: a word is put together from its fields, of which a row of the table sees the control bits alone. -/
theorem decodedRowIsTheMatchingTableRow : Obligations.DecodedRowIsTheMatchingTableRow := by
  intro p w hw
  have hd := twDuration_lt 32 w
  rw [← mkTxWord_fields hw]
  cases p with
  | top =>
    refine ⟨_, decode_top_mkTxWord hd, fun r hr hformat => ?_⟩
    rw [matchesWord_mkTxWord hd hr, topRow_iff r hr hformat]
  | sym =>
    refine ⟨_, decode_sym_mkTxWord hd, fun r hr hformat => ?_⟩
    rw [matchesWord_mkTxWord hd hr, symRow_iff r hr hformat]

/-- Settles O3: the decoder asks for nothing but the width of the number. -/
theorem everyTransactionWordDecodes : Obligations.EveryTransactionWordDecodes := by
  intro p durW w
  rw [Nat.add_comm 3 durW]
  refine ⟨fun hw => ⟨_, decode_fits hw, ?_⟩, fun hw => if_neg hw⟩
  cases p with
  | top => exact ⟨decodeTop_port, decodeTop_wellFormed (twDuration_lt durW w)⟩
  | sym => exact ⟨decodeSym_port, decodeSym_wellFormed (twDuration_lt durW w)⟩

/-- Settles O4: the decoder reads back the three bits the word was put together from, and they select. -/
theorem controlBitsSelectTheTransaction : Obligations.ControlBitsSelectTheTransaction := by
  intro durW srst valid level d hd
  have hread := And.intro (decode_top_mkTxWord (a := srst) (b := valid) (l := level) hd)
    (decode_sym_mkTxWord (a := srst) (b := valid) (l := level) hd)
  refine ⟨?_, ?_, ?_, ?_⟩
  · rintro rfl
    exact hread
  · rintro rfl rfl rfl
    exact hread
  · rintro rfl rfl rfl
    exact hread
  · rintro rfl rfl
    exact hread

end Sys2Proof

namespace Sys2Proof.Machine

section ClassifierPort

variable {s t : State} {o : Observation}

/-! ### One classification, an equation for each arm -/

theorem classify_waitHigh_profile (hs : s.sstate = .waitHigh) (hl : o.level = .high)
    (hm : highMatch s.cfg (pulseCount s.cfg o.duration) = true) :
    classify o s = acceptHigh (pulseCount s.cfg o.duration) s := by
  simp [classify, classifyWaitHigh, hs, hl, hm]

theorem classify_waitHigh_other (hs : s.sstate = .waitHigh)
    (h : ¬ (o.level = .high ∧ highMatch s.cfg (pulseCount s.cfg o.duration) = true)) :
    classify o s = (symReset s, .none) := by
  simp only [classify, classifyWaitHigh, hs, if_neg h, classifierDone]

theorem classify_waitLow_high (hs : s.sstate = .waitLow) (hl : o.level = .high) :
    classify o s = (symReset s, .none) := by
  simp only [classify, classifyWaitLow, hs, hl, classifierDone]

theorem classify_waitLow_low (hs : s.sstate = .waitLow) (hl : o.level = .low) :
    classify o s = (symReset s, pairClass s.cfg s.pendingHigh (pulseCount s.cfg o.duration)) := by
  simp only [classify, classifyWaitLow, hs, hl, classifierDone]

/-! ### The classifier's own port -/

theorem effect_symInstr (o : Observation) : effect (symInstr o) = classifyAlone o := by
  obtain ⟨l, d⟩ := o
  cases l <;> rfl

theorem exec_symInstr (o : Observation) : exec (symInstr o) s = .next t ↔ s.cfg.Admitted ∧ classifyAlone o s = t := by
  rw [exec_eq_next, effect_symInstr]

theorem classifyAlone_of_classify {u : State} {y : SymResult} (h : classify o s = (u, y)) :
    classifyAlone o s = quietOutputs y u := by
  rw [classifyAlone, h]

theorem classifyAlone_frame : SameFrameRegisters s (classifyAlone o s) :=
  ⟨classify_fstate, classify_address, classify_command, classify_bitIndex⟩

/-! ### The classifier inside the block -/

/-- Whatever the frame assembler does in the step, the classifier is left as its classification left it: a full
reset beside it finds the classifier reset already. -/
theorem parseRow_classifier (hr : ParseRow o s t) : SameClassifierRegisters (classify o s).1 t := by
  by_cases hy : (classify o s).2 = .pending
  · rw [(classify_pending hy).2.2.2]
    cases hr with
    | pending => exact ⟨rfl, rfl⟩
    | _ => simp_all
  · rw [classify_not_pending hy]
    cases hr with
    | pending hp => exact absurd hp hy
    | _ => exact ⟨rfl, rfl⟩

end ClassifierPort

/-- Settles O15: the equation of each arm of the classifier, with the outputs of its own port; a qualifying count is
remembered whole. -/
theorem classifierPortTransitions : Obligations.ClassifierPortTransitions := by
  intro s d ha
  have hrun : ∀ {l u y}, classify ⟨l, d⟩ s = (u, y) → exec (symInstr ⟨l, d⟩) s = .next (quietOutputs y u) :=
    fun h => (exec_symInstr _).2 ⟨ha, classifyAlone_of_classify h⟩
  refine ⟨?_, ?_, ?_, ?_, ?_⟩
  · intro hs hm
    have hmatch := highMatch_iff.2 hm
    have h := hrun (classify_waitHigh_profile (o := ⟨.high, d⟩) hs rfl hmatch)
    rwa [storedCount_of_highMatch ha hmatch] at h
  · intro hs hm
    exact hrun (classify_waitHigh_other (o := ⟨.high, d⟩) hs fun h => hm (highMatch_iff.1 h.2))
  · intro hs
    exact hrun (classify_waitHigh_other (o := ⟨.low, d⟩) hs (by simp))
  · intro hs
    exact hrun (classify_waitLow_high (o := ⟨.high, d⟩) hs rfl)
  · intro hs
    exact hrun (classify_waitLow_low (o := ⟨.low, d⟩) hs rfl)

/-- Settles O18: a classification is framed by the classifier's two registers, and the other two transactions write
no more than those. -/
theorem classifierPortLeavesTheFrameAssembler : Obligations.ClassifierPortLeavesTheFrameAssembler := by
  intro s t i hport h
  obtain ⟨-, rfl⟩ := exec_eq_next.1 h
  refine ⟨?_, effect_keeps i s⟩
  cases i with
  | reset | obsH | obsL | nop => cases hport
  | symReset | symNop => exact ⟨rfl, rfl, rfl, rfl⟩
  | symClassifyH | symClassifyL => exact classifyAlone_frame

/-- Settles O19: both are the same classification, which the frame assembler only adds to. -/
theorem classifierInTheBlockIsTheClassifierAlone : Obligations.ClassifierInTheBlockIsTheClassifierAlone := by
  intro s t u o ht hu
  obtain ⟨-, rfl⟩ := (exec_obsInstr o).1 ht
  obtain ⟨-, rfl⟩ := (exec_symInstr o).1 hu
  exact ⟨parseRow_classifier (parse_row o s), parse_sym⟩

/-! ### The bit codes of the enumerations read back (30_encoding.md R42 to R47) -/

theorem levelOfCode_levelCode (l : Level) : levelOfCode (levelCode l) = l := by cases l <;> rfl

theorem sstateOfCode_sstateCode (x : SState) : sstateOfCode (sstateCode x) = x := by cases x <;> rfl

theorem fstateOfCode_fstateCode (x : FState) : fstateOfCode (fstateCode x) = some x := by cases x <;> rfl

theorem symOfCode_symCode (x : SymResult) : symOfCode (symCode x) = some x := by cases x <;> rfl

theorem eventOfCode_eventCode (x : Event) : eventOfCode (eventCode x) = some x := by cases x <;> rfl

/-! ### The parts of the output word (30_encoding.md R49) -/

section OutputWord

variable (o : Output)

theorem outputWord_sym : (outputWord o).extractLsb' 0 3 = symCode o.sym := BitVec.extractLsb'_append_eq_right

theorem outputWord_diag : (outputWord o).extractLsb' 3 3 = eventCode o.diag := by
  rw [outputWord, BitVec.extractLsb'_append_eq_of_le (by omega)]
  exact BitVec.extractLsb'_append_eq_right

theorem outputWord_cmdByte : (outputWord o).extractLsb' 6 8 = cmdByte o := by
  rw [outputWord, BitVec.extractLsb'_append_eq_of_le (by omega), BitVec.extractLsb'_append_eq_of_le (by omega)]
  exact BitVec.extractLsb'_append_eq_right

theorem outputWord_cmdValid : (outputWord o).getLsbD 14 = o.cmd.isSome := by
  have hbit : (cmdValid o).getLsbD 0 = o.cmd.isSome := by
    unfold cmdValid
    cases o.cmd.isSome <;> rfl
  simpa only [outputWord, BitVec.getLsbD_append, Nat.reduceLT, Nat.reduceSub, if_false] using hbit

end OutputWord

/-- Settles O5: each sample word is read by evaluation. -/
theorem sampleWordsDecodeAsTheSpecLists : Obligations.SampleWordsDecodeAsTheSpecLists :=
  ⟨rfl, rfl, rfl, rfl, rfl, rfl, rfl, rfl, rfl, rfl, rfl, rfl⟩

/-- Settles O6: the codes are those of the definitions, and reading one back is a lemma for each enumeration. -/
theorem enumerationCodesAreTheSpecs : Obligations.EnumerationCodesAreTheSpecs :=
  ⟨rfl, rfl, levelOfCode_levelCode, rfl, rfl, sstateOfCode_sstateCode,
    rfl, rfl, rfl, fstateOfCode_fstateCode, rfl,
    rfl, rfl, rfl, rfl, rfl, symOfCode_symCode, rfl, rfl, rfl,
    rfl, rfl, rfl, rfl, rfl, eventOfCode_eventCode, rfl, rfl, rfl, rfl, rfl⟩

/-- Settles O7, a lemma for each part of the word. -/
theorem outputWordHoldsEachOutput : Obligations.OutputWordHoldsEachOutput :=
  fun o => ⟨outputWord_cmdValid o, outputWord_cmdByte o, outputWord_diag o, outputWord_sym o⟩

/-- Settles O45: the fetch takes the cycle off and reads its word at the port; the step runs what was read. -/
theorem stepRunsTheDecodedTransaction : Obligations.StepRunsTheDecodedTransaction := by
  intro s w cs i ha hi hd
  have hfetch : fetch s = .run i { s with input := cs } := by
    rw [fetch_cons ha hi]
    simp only [fetchCycle, hd, Bool.false_eq_true, if_false]
  simp only [step, hfetch]

end Sys2Proof.Machine

namespace Sys2Proof.Machine

section QuietRuns

variable {s t u : State} {k : Nat}

/-! ### Runs without a byte and without an event -/

/-- A run of `k` steps that emits no byte and reports no event. -/
inductive QuietRun : Nat → State → State → Prop
  | refl (s : State) : QuietRun 0 s s
  | head {k : Nat} {s t u : State} (hstep : step s = .next t) (hcmd : t.out.cmd = none)
      (hdiag : t.out.diag = .noEvent) (hrest : QuietRun k t u) : QuietRun (k + 1) s u

theorem QuietRun.single (hstep : step s = .next t) (hcmd : t.out.cmd = none) (hdiag : t.out.diag = .noEvent) :
    QuietRun 1 s t := .head hstep hcmd hdiag (.refl t)

theorem QuietRun.trans {k' : Nat} (h : QuietRun k s t) (h' : QuietRun k' t u) : QuietRun (k + k') s u := by
  induction h with
  | refl => rwa [Nat.zero_add]
  | head hstep hcmd hdiag _ ih =>
    rw [Nat.succ_add]
    exact .head hstep hcmd hdiag (ih h')

theorem QuietRun.trace (h : QuietRun k s t) :
    ∃ os, Machine.trace k s = some (os, t) ∧ os.map Output.cmd = List.replicate k none ∧
      os.map Output.diag = List.replicate k .noEvent := by
  induction h with
  | refl s => exact ⟨[], rfl, rfl, rfl⟩
  | @head _ _ t _ hstep hcmd hdiag _ ih =>
    obtain ⟨os, htrace, hcmds, hdiags⟩ := ih
    refine ⟨t.out :: os, ?_, ?_, ?_⟩
    · rw [trace_succ hstep, htrace, Option.map_some]
    · rw [List.map_cons, hcmd, hcmds, List.replicate_succ]
    · rw [List.map_cons, hdiag, hdiags, List.replicate_succ]

/-- A quiet run and one step more, whatever that step shows. -/
theorem QuietRun.trace_then_step (h : QuietRun k s t) (hstep : step t = .next u) :
    ∃ os, Machine.trace (k + 1) s = some (os, u) ∧ os.map Output.cmd = List.replicate k none ++ [u.out.cmd] ∧
      os.map Output.diag = List.replicate k .noEvent ++ [u.out.diag] := by
  obtain ⟨os, htrace, hcmds, hdiags⟩ := h.trace
  refine ⟨os ++ [u.out], ?_, by simp [hcmds], by simp [hdiags]⟩
  rw [trace_add, htrace, Option.bind_some, trace_succ hstep]
  rfl

theorem emittedBytes_eq_filterMap_cmd (os : List Output) : emittedBytes os = (os.map Output.cmd).filterMap id := by
  rw [emittedBytes, List.filterMap_map]
  rfl

end QuietRuns

section Pairs

variable {s : State} {c : Config} {f : FState} {y : SymResult} {d ph : Nat} {p : Nat × Nat} {ps : List (Nat × Nat)}
  {cs cs' : List Cycle}

/-! ### A high segment and the low segment after it -/

/-- The step of a transaction presented in its canonical word. -/
theorem step_canonicalWord {i : Instr} (ha : s.cfg.Admitted) (hport : i.port = s.port)
    (hw : i.wellFormed s.cfg.durW = true) (hi : s.input = wordCycle (encode s.cfg.durW i) :: cs) :
    step s = .next (effect i { s with input := cs }) := by
  rw [stepRunsTheDecodedTransaction s _ cs i ha hi (hport ▸ decode_encode hw)]
  exact exec_admitted i ha

/-- The state `s` once a high segment of `pc` units was remembered, with the input `cs` to come. -/
def heldHigh (pc : Nat) (cs : List Cycle) (s : State) : State :=
  startOutputs .pending { s with pendingHigh := pc, sstate := .waitLow, input := cs }

/-- The state `s` once a pair of segments gave the symbol `y`, with the input `cs` to come. -/
def afterPair (y : SymResult) (cs : List Cycle) (s : State) : State :=
  frameArm s.fstate y (startOutputs y (symReset { s with input := cs }))

theorem parse_high_profile (ha : s.cfg.Admitted) (hs : s.sstate = .waitHigh)
    (hm : highMatch s.cfg (pulseCount s.cfg d) = true) :
    parse ⟨.high, d⟩ { s with input := cs } = heldHigh (pulseCount s.cfg d) cs s := by
  have hc := classify_waitHigh_profile (s := { s with input := cs }) (o := ⟨.high, d⟩) hs rfl hm
  rw [parse_pending (by rw [hc]; rfl), hc, acceptHigh, storedCount_of_highMatch ha hm]
  rfl

theorem parse_low_heldHigh :
    parse ⟨.low, d⟩ { heldHigh ph cs s with input := cs' } =
      afterPair (pairClass s.cfg ph (pulseCount s.cfg d)) cs' s := by
  rw [parse, classify_waitLow_low rfl rfl]
  rfl

theorem step_high_profile (ha : s.cfg.Admitted) (hport : s.port = .top) (hs : s.sstate = .waitHigh)
    (hw : d < 2 ^ s.cfg.durW) (hm : highMatch s.cfg (pulseCount s.cfg d) = true)
    (hi : s.input = wordCycle (encode s.cfg.durW (.obsH d)) :: cs) :
    step s = .next (heldHigh (pulseCount s.cfg d) cs s) := by
  rw [step_canonicalWord (i := .obsH d) ha hport.symm (decide_eq_true hw) hi, effect, parse_high_profile ha hs hm]

theorem step_heldHigh (ha : s.cfg.Admitted) (hport : s.port = .top) (hw : d < 2 ^ s.cfg.durW) :
    step (heldHigh ph (wordCycle (encode s.cfg.durW (.obsL d)) :: cs) s) =
      .next (afterPair (pairClass s.cfg ph (pulseCount s.cfg d)) cs s) := by
  have hstep := step_canonicalWord (i := .obsL d)
    (s := heldHigh ph (wordCycle (encode s.cfg.durW (.obsL d)) :: cs) s) ha hport.symm (decide_eq_true hw) rfl
  rwa [effect, parse_low_heldHigh] at hstep

/-- The block stands between two pairs of segments, in the frame state `f`, with the input `cs` to come. -/
structure Ready (c : Config) (f : FState) (cs : List Cycle) (s : State) : Prop where
  cfg : s.cfg = c
  port : s.port = .top
  fstate : s.fstate = f
  sstate : s.sstate = .waitHigh
  input : s.input = cs

/-- A pair of segments takes two steps, the first of them quiet; the second hands the pair's symbol to the frame
assembler. -/
theorem pair_steps (ha : c.Admitted) (hr : Ready c f (presentAll c.durW (pairObservations (p :: ps)) ++ cs) s)
    (hw : p.1 < 2 ^ c.durW ∧ p.2 < 2 ^ c.durW) (hm : highMatch c (pulseCount c p.1) = true)
    (hy : pairClass c (pulseCount c p.1) (pulseCount c p.2) = y) :
    ∃ t, QuietRun 1 s t ∧ step t = .next (afterPair y (presentAll c.durW (pairObservations ps) ++ cs) s) := by
  obtain ⟨rfl, hport, -, hs, hi⟩ := hr
  exact ⟨_, .single (step_high_profile ha hport hs hw.1 hm hi) rfl rfl, hy ▸ step_heldHigh ha hport hw.2⟩

/-! ### The symbol of a pair (40_symbol_classifier.md R63) -/

theorem leader_symbol (h : CarriesLeader c p) :
    highMatch c (pulseCount c p.1) = true ∧ pairClass c (pulseCount c p.1) (pulseCount c p.2) = .leader := by
  obtain ⟨hhigh, hlow⟩ := h
  exact ⟨highMatch_iff.2 (.inl hhigh), if_pos ⟨hhigh, hlow⟩⟩

/-- Where the profiles differ as pairs, no earlier profile of the priority chain takes a data bit. -/
theorem bit_symbol {b : Bool} (hd : ProfilesDistinct c) (h : CarriesBit c b p) :
    highMatch c (pulseCount c p.1) = true ∧ pairClass c (pulseCount c p.1) (pulseCount c p.2) = dataSymbol b := by
  obtain ⟨hl0, hl1, h01⟩ := hd
  cases b with
  | false =>
    obtain ⟨hhigh, hlow⟩ := h
    rw [hhigh, hlow, highMatch_iff, pairClass, if_neg fun e => hl0 (Prod.ext e.1.symm e.2.symm), if_pos ⟨rfl, rfl⟩]
    exact ⟨.inr (.inl rfl), rfl⟩
  | true =>
    obtain ⟨hhigh, hlow⟩ := h
    rw [hhigh, hlow, highMatch_iff, pairClass, if_neg fun e => hl1 (Prod.ext e.1.symm e.2.symm),
      if_neg fun e => h01 (Prod.ext e.1.symm e.2.symm), if_pos ⟨rfl, rfl⟩]
    exact ⟨.inr (.inr rfl), rfl⟩

end Pairs

section Fields

variable {s : State} {c : Config} {r : FieldReg} {f g : Field} {n : Nat} {b : Bool} {cs cs' : List Cycle}

/-! ### A field received bit by bit -/

/-- The frame state in which a field is received. -/
def fieldState : FieldReg → FState
  | .address => .parsingAddress
  | .command => .parsingCommand

/-- The validation of a field once it is full. -/
def validateField : FieldReg → State → State
  | .address => validateAddress
  | .command => validateCommand

theorem frameArm_dataSymbol : frameArm (fieldState r) (dataSymbol b) s = dataBit r b (validateField r) s := by
  cases r <;> cases b <;> rfl

/-- The state `s` once the data bit `b` was stored into the field `r`, with the input `cs` to come. -/
def bitStored (r : FieldReg) (b : Bool) (cs : List Cycle) (s : State) : State :=
  storeBit r b (afterData b { s with input := cs })

theorem bitStored_out : (bitStored r b cs s).out = ⟨none, .noEvent, dataSymbol b⟩ := by
  cases r <;> cases b <;> rfl

theorem bitStored_bitIndex : (bitStored r b cs s).bitIndex = s.bitIndex + 1#5 := by
  cases r <;> rfl

theorem readField_bitStored :
    readField r (bitStored r b cs s) = writeBit (readField r s) s.bitIndex.toNat b := by
  cases r <;> rfl

theorem ready_bitStored {fs : FState} (h : Ready c fs cs s) : Ready c fs cs' (bitStored r b cs' s) := by
  cases r <;> exact ⟨h.cfg, h.port, h.fstate, rfl, rfl⟩

theorem afterPair_dataSymbol (hf : s.fstate = fieldState r) :
    afterPair (dataSymbol b) cs s = dataBit r b (validateField r) (afterData b { s with input := cs }) := by
  rw [afterPair, hf, frameArm_dataSymbol]

theorem afterPair_of_not_last (hf : s.fstate = fieldState r) (hi : s.bitIndex ≠ 15#5) :
    afterPair (dataSymbol b) cs s = bitStored r b cs s :=
  (afterPair_dataSymbol hf).trans (dataBit_of_not_last (s := afterData b { s with input := cs }) hi)

theorem afterPair_of_last (hf : s.fstate = fieldState r) (hi : s.bitIndex = 15#5) :
    afterPair (dataSymbol b) cs s = validateField r (bitStored r b cs s) :=
  (afterPair_dataSymbol hf).trans (dataBit_of_last (s := afterData b { s with input := cs }) hi)

/-- `g` holds the first `n` bits of `f`, and 0 above them. -/
abbrev BitsBelow (n : Nat) (f g : Field) : Prop := ∀ j < 16, g.getLsbD j = (decide (j < n) && f.getLsbD j)

theorem bitsBelow_zero : BitsBelow 0 f 0#16 := fun j _ => by simp

theorem bitsBelow_writeBit (h : BitsBelow n f g) : BitsBelow (n + 1) f (writeBit g n (f.getLsbD n)) := by
  intro j hj
  rw [getLsbD_writeBit g n _ hj]
  by_cases hjn : j = n
  · simp [hjn]
  · have hlt : j < n + 1 ↔ j < n := by omega
    simp only [hjn, if_false, h j hj, hlt]

theorem eq_of_bitsBelow_sixteen (h : BitsBelow 16 f g) : g = f :=
  BitVec.eq_of_getLsbD_eq fun j hj => by simpa [hj] using h j hj

/-- The block has received the first `n` bits of the field `f`, and the input `cs` is to come. -/
structure Collecting (c : Config) (r : FieldReg) (f : Field) (n : Nat) (cs : List Cycle) (s : State) : Prop
    extends Ready c (fieldState r) cs s where
  bitIndex : s.bitIndex = BitVec.ofNat 5 n
  field : BitsBelow n f (readField r s)

/-- The register holds the whole field `f`, which is about to be validated in a step that is quiet so far. -/
structure Filled (c : Config) (r : FieldReg) (f : Field) (cs : List Cycle) (s : State) : Prop
    extends Ready c (fieldState r) cs s where
  field : readField r s = f
  cmd : s.out.cmd = none
  diag : s.out.diag = .noEvent

theorem bitsBelow_bitStored (hn : n < 16) (h : Collecting c r f n cs s) :
    BitsBelow (n + 1) f (readField r (bitStored r (f.getLsbD n) cs' s)) := by
  have hindex : s.bitIndex.toNat = n := by
    rw [h.bitIndex, BitVec.toNat_ofNat, Nat.mod_eq_of_lt (by omega)]
  rw [readField_bitStored, hindex]
  exact bitsBelow_writeBit h.field

theorem collecting_bitStored (hn : n < 16) (h : Collecting c r f n cs s) :
    Collecting c r f (n + 1) cs' (bitStored r (f.getLsbD n) cs' s) :=
  { ready_bitStored h.toReady with
    bitIndex := by rw [bitStored_bitIndex, h.bitIndex, BitVec.ofNat_add]
    field := bitsBelow_bitStored hn h }

theorem filled_bitStored (h : Collecting c r f 15 cs s) : Filled c r f cs' (bitStored r (f.getLsbD 15) cs' s) :=
  { ready_bitStored h.toReady with
    field := eq_of_bitsBelow_sixteen (bitsBelow_bitStored (by decide) h)
    cmd := by rw [bitStored_out]
    diag := by rw [bitStored_out] }

theorem bitIndex_ne_fifteen (hn : n < 15) (h : Collecting c r f n cs s) : s.bitIndex ≠ 15#5 := by
  rw [h.bitIndex]
  intro e
  have htoNat := congrArg BitVec.toNat e
  rw [BitVec.toNat_ofNat, Nat.mod_eq_of_lt (by omega)] at htoNat
  exact hn.ne htoNat

variable {p : Nat × Nat} {qs : List (Nat × Nat)}

/-- A pair that carries a bit before the last is quiet and leaves the field one bit longer. -/
theorem bit_run (ha : c.Admitted) (hd : ProfilesDistinct c) (hn : n < 15)
    (h : Collecting c r f n (presentAll c.durW (pairObservations (p :: qs)) ++ cs) s)
    (hbit : CarriesBit c (f.getLsbD n) p) (hw : p.1 < 2 ^ c.durW ∧ p.2 < 2 ^ c.durW) :
    ∃ t, QuietRun 2 s t ∧ Collecting c r f (n + 1) (presentAll c.durW (pairObservations qs) ++ cs) t := by
  obtain ⟨hhigh, hsym⟩ := bit_symbol hd hbit
  obtain ⟨t, hquiet, hstep⟩ := pair_steps ha h.toReady hw hhigh hsym
  rw [afterPair_of_not_last h.fstate (bitIndex_ne_fifteen hn h)] at hstep
  exact ⟨_, hquiet.trans (.single hstep (by rw [bitStored_out]) (by rw [bitStored_out])),
    collecting_bitStored (by omega) h⟩

/-- The pair that carries the last bit fills the field, and its second step is the field's validation. -/
theorem lastBit_run (ha : c.Admitted) (hd : ProfilesDistinct c)
    (h : Collecting c r f 15 (presentAll c.durW (pairObservations (p :: qs)) ++ cs) s)
    (hbit : CarriesBit c (f.getLsbD 15) p) (hw : p.1 < 2 ^ c.durW ∧ p.2 < 2 ^ c.durW) :
    ∃ t u, QuietRun 1 s t ∧ step t = .next (validateField r u) ∧
      Filled c r f (presentAll c.durW (pairObservations qs) ++ cs) u := by
  obtain ⟨hhigh, hsym⟩ := bit_symbol hd hbit
  obtain ⟨t, hquiet, hstep⟩ := pair_steps ha h.toReady hw hhigh hsym
  rw [afterPair_of_last h.fstate h.bitIndex] at hstep
  exact ⟨t, _, hquiet, hstep, filled_bitStored h⟩

/-- The bits of a field from bit `n` on: quiet steps up to the one that stores bit 15, which validates the field. -/
theorem field_run (ha : c.Admitted) (hd : ProfilesDistinct c) {m : Nat} (hnm : n + m = 15)
    (h : Collecting c r f n (presentAll c.durW (pairObservations qs) ++ cs) s)
    (hbits : List.Forall₂ (CarriesBit c) ((List.range' n (m + 1)).map f.getLsbD) qs)
    (hw : ∀ p ∈ qs, p.1 < 2 ^ c.durW ∧ p.2 < 2 ^ c.durW) :
    ∃ t u, QuietRun (2 * m + 1) s t ∧ step t = .next (validateField r u) ∧ Filled c r f cs u := by
  induction m generalizing n s qs with
  | zero =>
    obtain rfl : n = 15 := hnm
    obtain ⟨p, qs, hbit, hnil, rfl⟩ := List.forall₂_cons_left_iff.1 hbits
    obtain rfl := List.forall₂_nil_left_iff.1 hnil
    exact lastBit_run ha hd h hbit (hw p (by simp))
  | succ m ih =>
    rw [List.range'_succ, List.map_cons] at hbits
    obtain ⟨p, qs, hbit, hrest, rfl⟩ := List.forall₂_cons_left_iff.1 hbits
    obtain ⟨hwp, hwqs⟩ := List.forall_mem_cons.1 hw
    obtain ⟨v, hquiet, hv⟩ := bit_run ha hd (by omega) h hbit hwp
    obtain ⟨t, u, hquiet', hlast, hu⟩ := ih (by omega) hv hrest hwqs
    exact ⟨t, u, (show 2 * (m + 1) + 1 = 2 + (2 * m + 1) by omega) ▸ hquiet.trans hquiet', hlast, hu⟩

end Fields

section WholeFrame

variable {s u : State} {c : Config} {lo hi : Byte} {qs : List (Nat × Nat)} {cs : List Cycle}

/-! ### A frame: its leader, its address and its command -/

/-- The field of which `lo` is received first and `hi` last (20_memory.md R33). -/
abbrev fieldOf (lo hi : Byte) : Field := (hi ++ lo : BitVec (8 + 8))

theorem lowByte_fieldOf : lowByte (fieldOf lo hi) = lo := BitVec.extractLsb'_append_eq_right

theorem highByte_fieldOf : highByte (fieldOf lo hi) = hi := BitVec.extractLsb'_append_eq_left

theorem fieldBits_eq : fieldBits lo hi = (List.range' 0 16).map (fieldOf lo hi).getLsbD := by
  have hrange : List.range' 0 16 = List.range 8 ++ (List.range 8).map (8 + ·) := by decide
  rw [hrange, List.map_append, List.map_map, fieldBits]
  congr 1 <;> refine List.map_congr_left fun j hj => ?_ <;> rw [List.mem_range] at hj
  · simp [BitVec.getLsbD_append, hj]
  · simp [BitVec.getLsbD_append]

theorem fieldBits_length : (fieldBits lo hi).length = 16 := by simp [fieldBits]

/-- The leader starts the address, whatever field is to come. -/
theorem leader_run {p : Nat × Nat} (ha : c.Admitted) (hleader : CarriesLeader c p)
    (h : Ready c .parsingLeader (presentAll c.durW (pairObservations (p :: qs)) ++ cs) s)
    (hw : p.1 < 2 ^ c.durW ∧ p.2 < 2 ^ c.durW) (f : Field) :
    ∃ t, QuietRun 2 s t ∧ Collecting c .address f 0 (presentAll c.durW (pairObservations qs) ++ cs) t := by
  obtain ⟨hhigh, hsym⟩ := leader_symbol hleader
  obtain ⟨t, hquiet, hstep⟩ := pair_steps ha h hw hhigh hsym
  rw [afterPair, h.fstate] at hstep
  exact ⟨_, hquiet.trans (.single hstep rfl rfl), ⟨h.cfg, h.port, rfl, rfl, rfl⟩, rfl, bitsBelow_zero⟩

theorem collecting_enterCommand {a : Field} (h : Filled c .address a cs u) (f : Field) :
    Collecting c .command f 0 cs (enterCommand u) :=
  ⟨⟨h.cfg, h.port, rfl, h.sstate, h.input⟩, rfl, bitsBelow_zero⟩

/-- A field filled from its first bit. -/
theorem wholeField_run {r : FieldReg} (ha : c.Admitted) (hd : ProfilesDistinct c)
    (h : Collecting c r (fieldOf lo hi) 0 (presentAll c.durW (pairObservations qs) ++ cs) s)
    (hbits : List.Forall₂ (CarriesBit c) (fieldBits lo hi) qs)
    (hw : ∀ p ∈ qs, p.1 < 2 ^ c.durW ∧ p.2 < 2 ^ c.durW) :
    ∃ t u, QuietRun 31 s t ∧ step t = .next (validateField r u) ∧ Filled c r (fieldOf lo hi) cs u :=
  field_run ha hd (m := 15) rfl h (fieldBits_eq ▸ hbits) hw

/-- The pairs of a frame are those of its leader, its address and its command. -/
theorem carriesFrame_split {a0 a1 c0 c1 : Byte} {ps : List (Nat × Nat)} (h : CarriesFrame c a0 a1 c0 c1 ps) :
    ∃ p as bs, ps = p :: (as ++ bs) ∧ CarriesLeader c p ∧
      List.Forall₂ (CarriesBit c) (fieldBits a0 a1) as ∧ List.Forall₂ (CarriesBit c) (fieldBits c0 c1) bs := by
  obtain ⟨p, qs, rfl, hleader, hbits⟩ := h
  refine ⟨p, qs.take 16, qs.drop 16, by rw [List.take_append_drop], hleader, ?_, ?_⟩
  · simpa [fieldBits_length] using List.forall₂_take 16 hbits
  · simpa [fieldBits_length] using List.forall₂_drop 16 hbits

theorem presentAll_pairObservations_append {durW : Nat} (ps qs : List (Nat × Nat)) :
    presentAll durW (pairObservations (ps ++ qs)) =
      presentAll durW (pairObservations ps) ++ presentAll durW (pairObservations qs) := by
  simp [presentAll, pairObservations]

/-- A frame up to the validation of its address. -/
theorem address_run {a0 a1 : Byte} {p : Nat × Nat} (ha : c.Admitted) (hd : ProfilesDistinct c)
    (h : Ready c .parsingLeader (presentAll c.durW (pairObservations (p :: qs)) ++ cs) s)
    (hleader : CarriesLeader c p) (hbits : List.Forall₂ (CarriesBit c) (fieldBits a0 a1) qs)
    (hw : ∀ p' ∈ p :: qs, p'.1 < 2 ^ c.durW ∧ p'.2 < 2 ^ c.durW) :
    ∃ t u, QuietRun 33 s t ∧ step t = .next (validateAddress u) ∧ Filled c .address (fieldOf a0 a1) cs u := by
  obtain ⟨hwp, hwqs⟩ := List.forall_mem_cons.1 hw
  obtain ⟨v, hquiet, hv⟩ := leader_run ha hleader h hwp (fieldOf a0 a1)
  obtain ⟨t, u, hquiet', hstep, hu⟩ := wholeField_run ha hd hv hbits hwqs
  exact ⟨t, u, hquiet.trans hquiet', hstep, hu⟩

/-- A valid frame emits its command byte in the last of its 66 steps and is quiet before. -/
theorem validFrame_run {b : Byte} {ps : List (Nat × Nat)} (ha : c.Admitted) (hd : ProfilesDistinct c)
    (h : Ready c .parsingLeader (presentAll c.durW (pairObservations ps) ++ cs) s)
    (hframe : CarriesFrame c c.expAddrLow c.expAddrHigh b (~~~b) ps)
    (hw : ∀ p ∈ ps, p.1 < 2 ^ c.durW ∧ p.2 < 2 ^ c.durW) :
    ∃ t u, QuietRun 65 s t ∧ step t = .next u ∧ u.out.cmd = some b ∧ u.out.diag = .noEvent ∧
      u.RegistersReset ∧ u.input = cs := by
  obtain ⟨p, as, bs, rfl, hleader, haddress, hcommand⟩ := carriesFrame_split hframe
  rw [← List.cons_append, presentAll_pairObservations_append, List.append_assoc] at h
  rw [← List.cons_append, List.forall_mem_append] at hw
  obtain ⟨hwas, hwbs⟩ := hw
  obtain ⟨t, u, hquiet, hstep, hu⟩ := address_run ha hd h hleader haddress hwas
  have hmatch : addressMatches u.cfg u.address = true := by
    rw [addressMatches_iff, hu.cfg, show u.address = _ from hu.field]
    exact ⟨lowByte_fieldOf, highByte_fieldOf⟩
  rw [validateAddress_of_match hmatch] at hstep
  obtain ⟨v, w, hquiet', hlast, hfilled⟩ := wholeField_run ha hd (collecting_enterCommand hu _) hcommand hwbs
  have hbyte : lowByte w.command = b := by rw [show w.command = _ from hfilled.field, lowByte_fieldOf]
  have hvalid : commandValid w.command = true := by
    rw [commandValid_iff, show w.command = _ from hfilled.field, lowByte_fieldOf, highByte_fieldOf, BitVec.not_not]
  rw [validateField, validateCommand_of_valid hvalid, hbyte] at hlast
  exact ⟨v, _, (hquiet.trans (.single hstep hu.cmd hu.diag)).trans hquiet', hlast, rfl, hfilled.diag,
    enterLeader_registersReset _, hfilled.input⟩

end WholeFrame

section Nominal

variable {c : Config}

/-! ### Exact multiples of the unit (30_encoding.md R55) -/

theorem pulseCount_mul_unitPeriod (hu : 1 ≤ c.unitPeriod) (n : Nat) : pulseCount c (n * c.unitPeriod) = n := by
  have hhalf : c.unitPeriod / (2 * c.unitPeriod) = 0 := Nat.div_eq_of_lt (by omega)
  rw [pulseCount, show 2 * (n * c.unitPeriod) + c.unitPeriod = c.unitPeriod + n * (2 * c.unitPeriod) by ring,
    Nat.add_mul_div_right _ _ (by omega), hhalf, Nat.zero_add]

/-- The durations of a pair of `h` and `l` units. -/
def nominalPair (c : Config) (h l : Nat) : Nat × Nat := (h * c.unitPeriod, l * c.unitPeriod)

/-- The durations of a data bit. -/
def nominalBit (c : Config) (b : Bool) : Nat × Nat :=
  if b then nominalPair c c.data1High c.data1Low else nominalPair c c.data0High c.data0Low

theorem nominalPair_rounds (hu : 1 ≤ c.unitPeriod) (h l : Nat) : PairRoundsTo c h l (nominalPair c h l) :=
  ⟨pulseCount_mul_unitPeriod hu h, pulseCount_mul_unitPeriod hu l⟩

theorem nominalBit_carries (hu : 1 ≤ c.unitPeriod) (b : Bool) : CarriesBit c b (nominalBit c b) := by
  cases b <;> exact nominalPair_rounds hu _ _

/-- The pairs of a frame of exact multiples. -/
def nominalFrame (c : Config) (a0 a1 c0 c1 : Byte) : List (Nat × Nat) :=
  nominalPair c c.leaderHigh c.leaderLow :: (fieldBits a0 a1 ++ fieldBits c0 c1).map (nominalBit c)

theorem nominalFrame_carries (hu : 1 ≤ c.unitPeriod) (a0 a1 c0 c1 : Byte) :
    CarriesFrame c a0 a1 c0 c1 (nominalFrame c a0 a1 c0 c1) := by
  refine ⟨_, _, rfl, nominalPair_rounds hu _ _, ?_⟩
  rw [List.forall₂_map_right_iff, List.forall₂_same]
  exact fun b _ => nominalBit_carries hu b

theorem bitOps_eq (b : Bool) : bitOps c b = pairObservations [nominalBit c b] := by cases b <;> rfl

theorem byteOps_eq (b : Byte) :
    byteOps c b = pairObservations (((List.range 8).map b.getLsbD).map (nominalBit c)) := by
  simp [byteOps, bitOps_eq, pairObservations, List.flatMap_map]

theorem frameOps_eq (a0 a1 c0 c1 : Byte) :
    frameOps c a0 a1 c0 c1 = pairObservations (nominalFrame c a0 a1 c0 c1) := by
  simp [frameOps, leaderOps, pairOps, byteOps_eq, nominalFrame, nominalPair, fieldBits, pairObservations]

theorem pairObservations_wellFormed {durW : Nat} {ps : List (Nat × Nat)}
    (h : ∀ i ∈ pairObservations ps, i.wellFormed durW = true) : ∀ p ∈ ps, p.1 < 2 ^ durW ∧ p.2 < 2 ^ durW := by
  intro p hp
  have hmem : ∀ i ∈ [Instr.obsH p.1, .obsL p.2], i.wellFormed durW = true :=
    fun i hi => h i (List.mem_flatMap.2 ⟨p, hp, hi⟩)
  exact ⟨of_decide_eq_true (hmem (.obsH p.1) (by simp)), of_decide_eq_true (hmem (.obsL p.2) (by simp))⟩

end Nominal

/-- Settles O54: exact multiples round to their counts, so the frame is a valid one, which is quiet up to the step
that emits its byte. -/
theorem nominalFrameDecodes : Obligations.NominalFrameDecodes := by
  intro s b rest ha hd hport hf hs hw hi
  rw [necFrameOps, frameOps_eq] at hw hi
  have hunit : 1 ≤ s.cfg.unitPeriod := by
    obtain ⟨⟨-, -, hunit, -⟩, -⟩ := ha
    exact hunit
  obtain ⟨t, u, hquiet, hstep, hcmd, -, hreset, hinput⟩ := validFrame_run ha hd ⟨rfl, hport, hf, hs, hi⟩
    (nominalFrame_carries hunit _ _ _ _) (pairObservations_wellFormed hw)
  obtain ⟨os, htrace, hcmds, -⟩ := hquiet.trace_then_step hstep
  refine ⟨os, u, htrace, ?_, hreset, hinput⟩
  rw [emittedBytes_eq_filterMap_cmd, hcmds, hcmd]
  rfl

end Sys2Proof.Machine

namespace Sys2Proof.Machine

section TimingComparator

variable {c : Config} {d e n h ph pc : Nat}

/-! ### The pulse count (40_symbol_classifier.md R61, R62) -/

/-- The interval of durations that round to a count (R62 (a)), from which the laws at single durations follow. -/
theorem pulseCount_eq_iff (hu : 1 ≤ c.unitPeriod) : pulseCount c d = n ↔
    2 * n * c.unitPeriod ≤ 2 * d + c.unitPeriod ∧ 2 * d < 2 * n * c.unitPeriod + c.unitPeriod := by
  have hstart : n * (2 * c.unitPeriod) = 2 * n * c.unitPeriod := by ring
  rw [pulseCount, Nat.div_eq_iff (by omega), hstart]
  omega

theorem pulseCount_mono (hde : d ≤ e) : pulseCount c d ≤ pulseCount c e :=
  Nat.div_le_div_right (by omega)

theorem pulseCount_eq_zero (hu : 1 ≤ c.unitPeriod) (hd : 2 * d < c.unitPeriod) : pulseCount c d = 0 := by
  rw [pulseCount_eq_iff hu]
  omega

/-- Both sides of the half boundary above `n` units: the first duration at or above it, and the last below it. -/
theorem pulseCount_half_boundary (hlo : c.unitPeriod ≤ 2 * h) (hhi : 2 * h ≤ c.unitPeriod + 1)
    (hu : 1 ≤ c.unitPeriod) :
    pulseCount c (n * c.unitPeriod + h) = n + 1 ∧ pulseCount c (n * c.unitPeriod + h - 1) = n := by
  have hn : 2 * n * c.unitPeriod = 2 * (n * c.unitPeriod) := by ring
  have hnext : 2 * (n + 1) * c.unitPeriod = 2 * (n * c.unitPeriod) + 2 * c.unitPeriod := by ring
  rw [pulseCount_eq_iff hu, pulseCount_eq_iff hu, hn, hnext]
  omega

theorem pulseCount_of_unit_one (h1 : c.unitPeriod = 1) : pulseCount c d = d := by
  rw [pulseCount_eq_iff h1.ge, h1]
  omega

theorem pulseCount_le (hu : 1 ≤ c.unitPeriod) : pulseCount c d ≤ d := by
  have hd : d ≤ d * c.unitPeriod := Nat.le_mul_of_pos_right d hu
  have hmul : (d + 1) * (2 * c.unitPeriod) = 2 * (d * c.unitPeriod) + 2 * c.unitPeriod := by ring
  rw [← Nat.lt_succ_iff, pulseCount, Nat.div_lt_iff_lt_mul (by omega), hmul]
  omega

/-! ### A count that does not fit `PC_W` bits (R61, R66, R68 (c)) -/

theorem not_highMatch_of_wide (hc : c.Admitted) (hwide : 2 ^ c.pcW ≤ pc) : ¬ highMatch c pc = true := by
  intro hm
  have hfits : storedCount c pc < 2 ^ c.pcW := Nat.mod_lt _ (Nat.two_pow_pos _)
  rw [storedCount_of_highMatch hc hm] at hfits
  omega

theorem pairClass_of_wide (hc : c.Admitted) (hwide : 2 ^ c.pcW ≤ pc) : pairClass c ph pc = .none := by
  obtain ⟨⟨-, -, -, -, -, hl, -, h0, -, h1⟩, -⟩ := hc
  have hne : ∀ {low : Nat}, low < 2 ^ c.pcW → pc ≠ low := fun hlow => by omega
  rw [pairClass, if_neg fun e => hne hl e.2, if_neg fun e => hne h0 e.2, if_neg fun e => hne h1 e.2]

end TimingComparator

section ClassifierInTheBlock

variable {s u : State} {o : Observation} {y : SymResult}

/-! ### The classifier's registers and result after an observation at the block's port -/

/-- An observation leaves the classifier's registers as its classification does, and shows its result. -/
theorem exec_obs_of_classify (ha : s.cfg.Admitted) (h : classify o s = (u, y)) :
    ∃ t, exec (obsInstr o) s = .next t ∧ SameClassifierRegisters u t ∧ t.out.sym = y := by
  have hreg := parseRow_classifier (parse_row o s)
  have hsym := parse_sym (o := o) (s := s)
  rw [h] at hreg hsym
  exact ⟨_, (exec_obsInstr o).2 ⟨ha, rfl⟩, hreg, hsym⟩

/-- A classification that is not accepting returns the classifier to `WaitHigh` with the memo cleared. -/
theorem exec_obs_of_done (ha : s.cfg.Admitted) (h : classify o s = (symReset s, y)) :
    ∃ t, exec (obsInstr o) s = .next t ∧ t.sstate = .waitHigh ∧ t.pendingHigh = 0 ∧ t.out.sym = y := by
  obtain ⟨t, hexec, ⟨hs, hp⟩, hy⟩ := exec_obs_of_classify ha h
  exact ⟨t, hexec, hs, hp, hy⟩

/-- After the invalid symbol the frame layer is seeking a leader, whatever it did before. -/
theorem parse_none_fstate (hy : (classify o s).2 = .none) : (parse o s).fstate = .parsingLeader := by
  have hr := parse_row o s
  generalize parse o s = t at hr
  cases hr with
  | ignored hf => exact hf
  | invalid => rfl
  | _ => simp_all

/-- `Pending` and `WaitLow` go together: the accepting arm alone leads to either (R73 (b)). -/
theorem parse_sym_pending_iff : (parse o s).out.sym = .pending ↔ (parse o s).sstate = .waitLow := by
  obtain ⟨hs, -⟩ := parseRow_classifier (parse_row o s)
  rw [parse_sym, hs]
  by_cases hy : (classify o s).2 = .pending
  · simp [(classify_pending hy).2.2.2, hy]
  · simp [classify_not_pending hy, hy]

end ClassifierInTheBlock

/-- Settles O8: over the common denominator the formula is a quotient of naturals, whose floor is their division. -/
theorem pulseCountIsRoundToNearest : Obligations.PulseCountIsRoundToNearest := by
  intro c d hu
  have hpos : (c.unitPeriod : Rat) ≠ 0 := Nat.cast_ne_zero.2 (by omega)
  have hquot : (d : Rat) / c.unitPeriod + 1 / 2 =
      ((2 * d + c.unitPeriod : Nat) : Rat) / ((2 * c.unitPeriod : Nat) : Rat) := by
    push_cast
    field_simp
  rw [hquot, Rat.floor_natCast_div_natCast]
  rfl

/-- Settles O9: the interval of a count, the monotony of division, and the laws the interval gives at single durations. -/
theorem pulseCountLaws : Obligations.PulseCountLaws := by
  intro c hu
  refine ⟨fun d n => pulseCount_eq_iff hu, fun d e => pulseCount_mono, fun d => pulseCount_eq_zero hu,
    pulseCount_mul_unitPeriod hu, ?_, ?_, fun h1 d => pulseCount_of_unit_one h1⟩
  · intro n h heven
    exact pulseCount_half_boundary (by omega) (by omega) hu
  · intro n h hodd
    exact pulseCount_half_boundary (h := h + 1) (by omega) (by omega) hu

/-- Settles O10: a count is at most its duration, and one that is too wide differs from every profile count. -/
theorem longDurationsNeverAlias : Obligations.LongDurationsNeverAlias := by
  intro s d ha hd
  have ⟨⟨_, _, hu, hunit, _⟩, _⟩ := ha
  refine ⟨?_, (pulseCount_le hu).trans hd.le, ?_, ?_⟩
  · rw [Nat.pow_add]
    omega
  · intro hs hwide
    have hc := classify_waitHigh_other (o := ⟨.high, d⟩) hs fun h => not_highMatch_of_wide ha hwide h.2
    obtain ⟨t, hexec, hw, hp, hy⟩ := exec_obs_of_done ha hc
    exact ⟨t, hexec, hy, hw, hp⟩
  · intro hs hwide
    have hc := classify_waitLow_low (o := ⟨.low, d⟩) hs rfl
    rw [pairClass_of_wide ha hwide] at hc
    obtain ⟨t, hexec, hw, hp, hy⟩ := exec_obs_of_done ha hc
    exact ⟨t, hexec, hy, hw, hp⟩

/-- Settles O11: the count is held in the classifier, and `Pending` reaches nothing else. -/
theorem qualifyingHighIsRemembered : Obligations.QualifyingHighIsRemembered := by
  intro s d ha hs hm
  exact exec_eq_next.2 ⟨ha, parse_high_profile (cs := s.input) ha hs (highMatch_iff.2 hm)⟩

/-- Settles O12: the rejecting arm of `WaitHigh`, which the frame layer takes as an invalid symbol. -/
theorem waitHighRejectsAnythingElse : Obligations.WaitHighRejectsAnythingElse := by
  intro s o ha hs hother
  have hc := classify_waitHigh_other (o := o) hs fun ⟨hl, hm⟩ => by
    rcases hother with hlow | hno
    · rw [hlow] at hl
      cases hl
    · exact hno (highMatch_iff.1 hm)
  obtain ⟨t, hexec, hw, hp, hy⟩ := exec_obs_of_done ha hc
  obtain ⟨-, rfl⟩ := (exec_obsInstr o).1 hexec
  exact ⟨_, hexec, hw, hp, hy, parse_none_fstate (by rw [hc])⟩

/-- Settles O13: the arm of `WaitLow` for a high observation. -/
theorem highInWaitLowAborts : Obligations.HighInWaitLowAborts :=
  fun _ d ha hs => exec_obs_of_done ha (classify_waitLow_high (o := ⟨.high, d⟩) hs rfl)

/-- Settles O14: the arm of `WaitLow` for a low observation, and the priority chain of the profiles. -/
theorem lowInWaitLowClassifiesThePair : Obligations.LowInWaitLowClassifiesThePair := by
  intro s d ha hs
  obtain ⟨t, hexec, hw, hp, hy⟩ := exec_obs_of_done ha (classify_waitLow_low (o := ⟨.low, d⟩) hs rfl)
  refine ⟨t, hexec, hw, hp, ?_, ?_, ?_, ?_⟩ <;> rw [hy, pairClass]
  · intro hl
    rw [if_pos hl]
  · intro hl h0
    rw [if_neg hl, if_pos h0]
  · intro hl h0 h1
    rw [if_neg hl, if_neg h0, if_pos h1]
  · intro hl h0 h1
    rw [if_neg hl, if_neg h0, if_neg h1]

/-- Settles O16: the reset is one effect, the same from its own result, after which a low segment meets `WaitHigh`. -/
theorem symResetForgetsThePendingHigh : Obligations.SymResetForgetsThePendingHigh := by
  intro s ha
  refine ⟨exec_admitted .symReset ha, exec_admitted .symReset ha, fun d => ?_⟩
  have hc := classify_waitHigh_other (s := quietOutputs .pending (symReset s)) (o := ⟨.low, d⟩) rfl (by simp)
  exact ⟨_, (exec_symInstr ⟨.low, d⟩).2 ⟨ha, classifyAlone_of_classify hc⟩, rfl, rfl⟩

/-- Settles O20: the first high segment leaves the classifier in `WaitLow`, and only `WaitHigh` accepts one. -/
theorem twoHighsAreNeverBothAccepted : Obligations.TwoHighsAreNeverBothAccepted := by
  intro s t u o o' ht hu
  obtain ⟨-, rfl⟩ := (exec_obsInstr o).1 ht
  obtain ⟨-, rfl⟩ := (exec_obsInstr o').1 hu
  refine ⟨parse_sym_pending_iff, fun hfirst hsecond => ?_⟩
  have hlow := parse_sym_pending_iff.1 hfirst
  have hhigh := (classify_pending (parse_sym.symm.trans hsecond)).1
  rw [hlow] at hhigh
  cases hhigh

/-- Settles O17: the transaction writes the outputs alone. -/
theorem symNopChangesNoRegister : Obligations.SymNopChangesNoRegister :=
  fun _ ha => exec_admitted .symNop ha

end Sys2Proof.Machine

namespace Sys2Proof.Machine

section OneObservation

variable {s : State} {o : Observation} {y : SymResult} {r : FieldReg} {f g : Field} {b : Bool} {i : Nat}

/-! ### One observation, by its result and the state it starts in -/

/-- A result other than `Pending` is handed to the frame assembler as the symbol of a pair is. -/
theorem parse_eq_afterPair (hy : (classify o s).2 ≠ .pending) :
    parse o s = afterPair (classify o s).2 s.input s := by
  rw [parse, classify_not_pending hy]
  rfl

theorem parse_dataSymbol (hy : (classify o s).2 = dataSymbol b) :
    parse o s = afterPair (dataSymbol b) s.input s := by
  rw [parse_eq_afterPair (by simp [hy]), hy]

/-- A `Leader` in a field (41_frame_assembler.md R86, R89). -/
theorem parse_leader_in_field (hf : s.fstate ≠ .parsingLeader) (hy : (classify o s).2 = .leader) :
    parse o s = takeEvent .sequenceViolation (startOutputs .leader (symReset s)) := by
  rw [parse, classify_not_pending (by simp [hy]), hy]
  cases hs : s.fstate with
  | parsingLeader => exact absurd hs hf
  | parsingAddress | parsingCommand => rfl

/-- A `None` in a field (R86, R89). -/
theorem parse_none_in_field (hf : s.fstate ≠ .parsingLeader) (hy : (classify o s).2 = .none) :
    parse o s = enterLeader (startOutputs .none (symReset s)) := by
  rw [parse, classify_not_pending (by simp [hy]), hy]
  cases hs : s.fstate with
  | parsingLeader => exact absurd hs hf
  | parsingAddress | parsingCommand => rfl

theorem storedAt_writeBit : StoredAt f i b (writeBit f i b) := fun _ hj => getLsbD_writeBit f i b hj

theorem eq_writeBit_of_storedAt (h : StoredAt f i b g) : g = writeBit f i b :=
  BitVec.eq_of_getLsbD_eq fun j hj => (h j hj).trans (storedAt_writeBit j hj).symm

/-! ### The observation that carries a data bit of a field -/

/-- A bit before the last is stored. -/
theorem exec_storedBit (hf : s.fstate = fieldState r) (hy : (classify o s).2 = dataSymbol b)
    (ha : s.cfg.Admitted) (hi : s.bitIndex.toNat < 15) :
    exec (obsInstr o) s = .next (bitStored r b s.input s) := by
  have hne : s.bitIndex ≠ 15#5 := fun e => by simp [e] at hi
  exact (exec_obsInstr o).2 ⟨ha, (parse_dataSymbol hy).trans (afterPair_of_not_last hf hne)⟩

/-- The last bit is stored and the field validated. -/
theorem parse_lastBit (hf : s.fstate = fieldState r) (hy : (classify o s).2 = dataSymbol b)
    (hi : s.bitIndex = 15#5) : parse o s = validateField r (bitStored r b s.input s) :=
  (parse_dataSymbol hy).trans (afterPair_of_last hf hi)

theorem readField_lastBit (hi : s.bitIndex = 15#5) (hst : StoredAt (readField r s) 15 b g) :
    readField r (bitStored r b s.input s) = g := by
  rw [readField_bitStored, hi, eq_writeBit_of_storedAt hst]
  rfl

/-! ### How a full field ends -/

/-- The state the full reset leaves, with the outputs `x` (41_frame_assembler.md R81). -/
abbrev restarted (x : Output) (s : State) : State :=
  { s with
    sstate := .waitHigh
    pendingHigh := 0
    fstate := .parsingLeader
    address := 0#16
    command := 0#16
    bitIndex := 0#5
    out := x }

/-- The state in which the command is begun after the address `f`, with the outputs `x` (R83). -/
abbrev commandBegun (f : Field) (x : Output) (s : State) : State :=
  { s with
    sstate := .waitHigh
    pendingHigh := 0
    fstate := .parsingCommand
    address := f
    command := 0#16
    bitIndex := 0#5
    out := x }

theorem takeEvent_bitStored (e : Event) :
    takeEvent e (bitStored r b s.input s) = restarted ⟨none, e, dataSymbol b⟩ s := by
  cases r <;> rfl

theorem enterLeader_emit_bitStored (v : Byte) :
    enterLeader (emit v (bitStored r b s.input s)) = restarted ⟨some v, .noEvent, dataSymbol b⟩ s := by
  cases r <;> cases b <;> rfl

theorem enterCommand_bitStored :
    enterCommand (bitStored .address b s.input s) =
      commandBegun (bitStored .address b s.input s).address ⟨none, .noEvent, dataSymbol b⟩ s := by
  cases b <;> rfl

theorem enterCommand_raise_bitStored (e : Event) :
    enterCommand (raise e (bitStored .address b s.input s)) =
      commandBegun (bitStored .address b s.input s).address ⟨none, e, dataSymbol b⟩ s :=
  rfl

end OneObservation

section LastBits

variable {s : State} {o : Observation} {b : Bool} {f : Field}

theorem bitStored_cfg {r : FieldReg} {cs : List Cycle} : (bitStored r b cs s).cfg = s.cfg := by
  cases r <;> rfl

section Address

variable (hf : s.fstate = .parsingAddress) (hy : (classify o s).2 = dataSymbol b) (hi : s.bitIndex = 15#5)
  (hst : StoredAt s.address 15 b f)
include hf hy hi hst

theorem parse_lastAddressBit_match (hm : addressMatches s.cfg f = true) :
    parse o s = commandBegun f ⟨none, .noEvent, dataSymbol b⟩ s := by
  have haddress : (bitStored .address b s.input s).address = f := readField_lastBit (r := .address) hi hst
  rw [parse_lastBit (r := .address) hf hy hi, validateField,
    validateAddress_of_match (by rwa [bitStored_cfg, haddress]), enterCommand_bitStored, haddress]

theorem parse_lastAddressBit_restart (hm : addressMatches s.cfg f = false) (hp : s.cfg.addrFailPolicy = .restart) :
    parse o s = restarted ⟨none, .addrCheckFail, dataSymbol b⟩ s := by
  have haddress : (bitStored .address b s.input s).address = f := readField_lastBit (r := .address) hi hst
  rw [parse_lastBit (r := .address) hf hy hi, validateField,
    validateAddress_of_restart (by rwa [bitStored_cfg, haddress]) (by rwa [bitStored_cfg]), takeEvent_bitStored]

theorem parse_lastAddressBit_continue (hm : addressMatches s.cfg f = false)
    (hp : s.cfg.addrFailPolicy = .continueOn) :
    parse o s = commandBegun f ⟨none, .addrCheckFail, dataSymbol b⟩ s := by
  have haddress : (bitStored .address b s.input s).address = f := readField_lastBit (r := .address) hi hst
  rw [parse_lastBit (r := .address) hf hy hi, validateField,
    validateAddress_of_continue (by rwa [bitStored_cfg, haddress]) (by rwa [bitStored_cfg]),
    enterCommand_raise_bitStored, haddress]

end Address

section Command

variable (hf : s.fstate = .parsingCommand) (hy : (classify o s).2 = dataSymbol b) (hi : s.bitIndex = 15#5)
  (hst : StoredAt s.command 15 b f)
include hf hy hi hst

theorem parse_lastCommandBit_valid (hm : commandValid f = true) :
    parse o s = restarted ⟨some (lowByte f), .noEvent, dataSymbol b⟩ s := by
  have hcommand : (bitStored .command b s.input s).command = f := readField_lastBit (r := .command) hi hst
  rw [parse_lastBit (r := .command) hf hy hi, validateField,
    validateCommand_of_valid (by rwa [hcommand]), hcommand, enterLeader_emit_bitStored]

theorem parse_lastCommandBit_invalid (hm : commandValid f = false) :
    parse o s = restarted ⟨none, .cmdCheckFail, dataSymbol b⟩ s := by
  have hcommand : (bitStored .command b s.input s).command = f := readField_lastBit (r := .command) hi hst
  rw [parse_lastBit (r := .command) hf hy hi, validateField,
    validateCommand_of_invalid (by rwa [hcommand]), takeEvent_bitStored]

end Command

end LastBits

/-- Settles O21: the arm of `ParsingLeader` starts the address on a `Leader` and is the identity on any other result. -/
theorem parsingLeaderWaitsForALeader : Obligations.ParsingLeaderWaitsForALeader := by
  intro s o ha hf
  constructor
  · intro hy
    refine (exec_obsInstr o).2 ⟨ha, ?_⟩
    rw [parse_leader hf, classify_not_pending (by simp [hy]), hy]
    rfl
  · intro hy
    have hparse := parse_leader (o := o) hf
    rw [leaderArm_of_ne_leader hy] at hparse
    refine ⟨_, (exec_obsInstr o).2 ⟨ha, rfl⟩, (parse_leader_frame hf).2 (by rwa [parse_sym]),
      ⟨parse_cfg, parse_port, parse_input⟩, parseRow_classifier (parse_row o s), ?_⟩
    rw [hparse, startOutputs_out]

/-- Settles O22: the step is the store of one bit, for either field. -/
theorem dataSymbolStoresOneBit : Obligations.DataSymbolStoresOneBit := by
  intro s o b ha hy hi
  have hindex := bitIndex_succ_toNat (i := s.bitIndex) hi.le
  exact ⟨
    fun hf => ⟨_, exec_storedBit (r := .address) hf hy ha hi, storedAt_writeBit, rfl, hindex, hf, rfl, rfl,
      ⟨rfl, rfl, rfl⟩, bitStored_out⟩,
    fun hf => ⟨_, exec_storedBit (r := .command) hf hy ha hi, storedAt_writeBit, rfl, hindex, hf, rfl, rfl,
      ⟨rfl, rfl, rfl⟩, bitStored_out⟩⟩

theorem addressMatches_eq_false_iff {c : Config} {f : Field} :
    addressMatches c f = false ↔ ¬ (lowByte f = c.expAddrLow ∧ highByte f = c.expAddrHigh) := by
  rw [← addressMatches_iff, Bool.not_eq_true]

theorem commandValid_eq_false_iff {f : Field} : commandValid f = false ↔ lowByte f ≠ ~~~(highByte f) := by
  rw [Ne, ← commandValid_iff, Bool.not_eq_true]

/-- Settles O24: a failed check is taken to the state its policy names, with the event reported. -/
theorem addressFailureFollowsThePolicy : Obligations.AddressFailureFollowsThePolicy := by
  intro s o b f ha hy hf hi hst hno
  have hm := addressMatches_eq_false_iff.2 hno
  exact ⟨fun hp => (exec_obsInstr o).2 ⟨ha, parse_lastAddressBit_restart hf hy hi hst hm hp⟩,
    fun hp => (exec_obsInstr o).2 ⟨ha, parse_lastAddressBit_continue hf hy hi hst hm hp⟩⟩

/-- Settles O23: a match begins the command; a failed check is reported under either policy (O24). -/
theorem fullAddressIsValidatedInTheSameStep : Obligations.FullAddressIsValidatedInTheSameStep := by
  intro s o b f ha hy hf hi hst
  constructor
  · intro hmatch
    exact (exec_obsInstr o).2 ⟨ha, parse_lastAddressBit_match hf hy hi hst (addressMatches_iff.2 hmatch)⟩
  · intro hno
    obtain ⟨hrestart, hcontinue⟩ := addressFailureFollowsThePolicy s o b f ha hy hf hi hst hno
    cases hp : s.cfg.addrFailPolicy with
    | restart => exact ⟨_, hrestart hp, rfl⟩
    | continueOn => exact ⟨_, hcontinue hp, rfl⟩

/-- Settles O25: the valid arm of the command's validation. -/
theorem complementPairEmitsItsLowByte : Obligations.ComplementPairEmitsItsLowByte := by
  intro s o b f ha hy hf hi hst hvalid
  exact (exec_obsInstr o).2 ⟨ha, parse_lastCommandBit_valid hf hy hi hst (commandValid_iff.2 hvalid)⟩

/-- No byte is its own complement: its lowest bit would be. -/
theorem byte_ne_complement (x : Byte) : x ≠ ~~~x := by
  intro h
  have hbit := congrArg (BitVec.getLsbD · 0) h
  simp at hbit

/-- Settles O26: the other arm of the command's validation, which a pair of equal bytes always takes. -/
theorem otherCommandPairsEmitNothing : Obligations.OtherCommandPairsEmitNothing := by
  intro s o b f ha hy hf hi hst hpair
  have hinvalid : lowByte f ≠ ~~~(highByte f) := by
    rcases hpair with hne | heq
    · exact hne
    · rw [show lowByte f = highByte f from heq]
      exact byte_ne_complement _
  exact (exec_obsInstr o).2 ⟨ha, parse_lastCommandBit_invalid hf hy hi hst (commandValid_eq_false_iff.2 hinvalid)⟩

section CommandCheck

variable {f : Field} {lo hi : Byte}

/-! ### Forms of the complement check (41_frame_assembler.md R90, R98) -/

theorem eq_not_iff_xor : lo = ~~~hi ↔ lo ^^^ hi = 0xFF#8 := by
  have hones : 0xFF#8 = ~~~hi ^^^ hi := by
    rw [BitVec.not_def, BitVec.xor_assoc, BitVec.xor_self, BitVec.xor_zero]
    rfl
  rw [hones, BitVec.xor_left_inj]

theorem eq_not_iff_toNat_add : lo = ~~~hi ↔ lo.toNat + hi.toNat = 255 := by
  have hlt := hi.isLt
  rw [← BitVec.toNat_inj, BitVec.toNat_not]
  omega

theorem fieldOf_lowByte_highByte : fieldOf (lowByte f) (highByte f) = f :=
  (BitVec.extractLsb'_append_extractLsb'_eq_extractLsb' rfl).trans BitVec.extractLsb'_eq_self

theorem commandValid_iff_bits : commandValid f = true ↔ ∀ i < 8, f.getLsbD i ≠ f.getLsbD (i + 8) := by
  rw [commandValid_iff, BitVec.eq_of_getLsbD_eq_iff]
  refine forall₂_congr fun i hi => ?_
  simp [lowByte, highByte, hi, Nat.add_comm 8 i, Bool.eq_not]

theorem commandValid_iff_fieldOf : commandValid f = true ↔ ∃ x : Byte, f = fieldOf x (~~~x) := by
  rw [commandValid_iff]
  constructor
  · intro h
    have hhigh : ~~~(lowByte f) = highByte f := by rw [h, BitVec.not_not]
    exact ⟨lowByte f, by rw [hhigh, fieldOf_lowByte_highByte]⟩
  · rintro ⟨x, rfl⟩
    rw [lowByte_fieldOf, highByte_fieldOf, BitVec.not_not]

end CommandCheck

/-- Settles O27, a lemma for each form of the check. -/
theorem commandCheckIsComplementEquality : Obligations.CommandCheckIsComplementEquality := by
  intro f
  have hcheck : commandValid f = true ↔ lowByte f = ~~~(highByte f) := commandValid_iff
  refine ⟨hcheck, hcheck.trans eq_not_iff_xor, hcheck.trans eq_not_iff_toNat_add, commandValid_iff_bits,
    commandValid_iff_fieldOf, fun h => ?_, by decide, by decide⟩
  change lowByte f &&& highByte f = 0#8
  rw [hcheck.1 h]
  exact BitVec.not_and_self _

/-- Settles O28: each of the two results has one arm, the same in both fields. -/
theorem invalidSymbolInAFieldRestarts : Obligations.InvalidSymbolInAFieldRestarts := by
  rintro s o e ha hf (⟨hy, rfl⟩ | ⟨hy, rfl⟩) <;> rw [hy] <;> refine (exec_obsInstr o).2 ⟨ha, ?_⟩
  · exact parse_leader_in_field hf hy
  · exact parse_none_in_field hf hy

/-- Settles O31: an accepting classification writes the classifier alone, and no arm does anything with `Pending`. -/
theorem pendingTouchesNoFrameRegister : Obligations.PendingTouchesNoFrameRegister := by
  intro s o ha hy
  obtain ⟨-, -, -, hc⟩ := classify_pending hy
  have hparse := parse_pending hy
  rw [hc] at hparse
  exact ⟨_, (exec_obsInstr o).2 ⟨ha, hparse⟩, ⟨rfl, rfl, rfl, rfl⟩, ⟨rfl, rfl, rfl⟩, rfl, rfl⟩

/-- Settles O35: the reset is one effect, the same from its own result, after which a low segment meets `WaitHigh`. -/
theorem resetForcesTheResetState : Obligations.ResetForcesTheResetState := by
  intro s ha
  refine ⟨exec_admitted .reset ha, exec_admitted .reset ha, rfl, fun d => ?_⟩
  have hc := classify_waitHigh_other (s := frameReset s) (o := ⟨.low, d⟩) rfl (by simp)
  obtain ⟨u, hexec, -, -, hy⟩ := exec_obs_of_done (s := frameReset s) ha hc
  exact ⟨u, hexec, hy⟩

end Sys2Proof.Machine

namespace Sys2Proof.Machine

section EventsAndBytes

variable {s t : State} {o : Observation} {i : Instr} {b : Byte}

/-! ### Which step emits a byte or reports an event -/

theorem not_obsInstr_silent (hi : ∀ o, i ≠ obsInstr o) (s : State) :
    (effect i s).out.diag = .noEvent ∧ (effect i s).out.cmd = none := by
  cases i with
  | obsH d => exact absurd rfl (hi ⟨.high, d⟩)
  | obsL d => exact absurd rfl (hi ⟨.low, d⟩)
  | reset | nop | symReset | symClassifyH | symClassifyL | symNop => exact ⟨rfl, rfl⟩

/-- The one row of 41_frame_assembler.md R95 that emits a byte. -/
theorem parseRow_emits (hr : ParseRow o s t) (hb : t.out.cmd = some b) :
    s.fstate = .parsingCommand ∧ s.bitIndex = 15#5 ∧ t.RegistersReset ∧ t.out.diag = .noEvent ∧
      ∃ x, (classify o s).2 = dataSymbol x ∧ commandValid (writeBit s.command 15 x) = true ∧
        lowByte (writeBit s.command 15 x) = b := by
  cases hr with
  | commandValid x hf hy hi hm =>
    exact ⟨hf, hi, enterLeader_registersReset _, by simp, x, hy, hm, by simpa using hb⟩
  | _ => simp at hb

/-- A byte comes only from an observation, the low segment of a data bit. -/
theorem effect_emits (hb : (effect i s).out.cmd = some b) :
    ∃ d, i = .obsL d ∧ s.sstate = .waitLow ∧ ParseRow ⟨.low, d⟩ s (effect i s) := by
  by_cases hobs : ∃ o, i = obsInstr o
  · obtain ⟨⟨l, d⟩, rfl⟩ := hobs
    rw [effect_obsInstr] at hb ⊢
    obtain ⟨-, -, -, -, x, hy, -⟩ := parseRow_emits (parse_row _ s) hb
    obtain ⟨hs, hl, -⟩ := classify_concrete (s := s) (o := ⟨l, d⟩) (by simp [hy]) (by simp [hy])
    obtain rfl : l = .low := hl
    exact ⟨d, rfl, hs, parse_row _ s⟩
  · rw [(not_obsInstr_silent (not_exists.1 hobs) s).2] at hb
    cases hb

/-- The bits of a command whose bytes are complements, the last of them just stored. -/
theorem command_bits_of_valid {f : Field} {x : Bool} (hv : commandValid (writeBit f 15 x) = true) :
    (∀ j < 7, f.getLsbD (8 + j) = !f.getLsbD j) ∧ x = !f.getLsbD 7 := by
  have hbits := commandValid_iff_bits.1 hv
  have hlow : ∀ j < 8, (writeBit f 15 x).getLsbD j = f.getLsbD j :=
    fun j hj => getLsbD_writeBit_of_ne (by omega) (by omega)
  constructor
  · intro j hj
    have hne := hbits j (by omega)
    rw [hlow j (by omega), getLsbD_writeBit_of_ne (by omega) (by omega)] at hne
    rw [Nat.add_comm]
    exact Bool.eq_not.2 hne.symm
  · have hne := hbits 7 (by omega)
    rw [hlow 7 (by omega), getLsbD_writeBit f 15 x (by omega), if_pos rfl] at hne
    exact Bool.eq_not.2 hne.symm

/-- The last bit stored is no bit of the low byte. -/
theorem lowByte_writeBit_fifteen (f : Field) (x : Bool) : lowByte (writeBit f 15 x) = lowByte f := by
  refine BitVec.eq_of_getLsbD_eq fun j hj => ?_
  rw [lowByte, lowByte, BitVec.getLsbD_extractLsb', BitVec.getLsbD_extractLsb',
    getLsbD_writeBit_of_ne (by omega) (by omega)]

/-! ### When each event is reported (60_exceptions.md R121) -/

theorem parseRow_timingMismatch_iff (hr : ParseRow o s t) :
    t.out.diag = .timingMismatch ↔ (classify o s).2 = .none := by
  cases hr with
  | ignored => simp
  | pending hy | leader _ hy | invalid _ hy | sequence _ hy => simp [hy]
  | addressBit _ _ hy | addressMatch _ _ hy | addressRestart _ _ hy | addressContinue _ _ hy => simp [hy]
  | commandBit _ _ hy | commandValid _ _ hy | commandInvalid _ _ hy => simp [hy]

theorem parse_sequenceViolation_iff :
    (parse o s).out.diag = .sequenceViolation ↔ (classify o s).2 = .leader ∧ s.fstate ≠ .parsingLeader := by
  constructor
  · intro he
    have hr := parse_row o s
    generalize parse o s = t at hr he
    cases hr with
    | sequence hf hy => exact ⟨hy, hf⟩
    | _ => simp [ite_eq_iff] at he
  · rintro ⟨hy, hf⟩
    rw [parse_leader_in_field hf hy]
    rfl

theorem parse_addrCheckFail_iff :
    (parse o s).out.diag = .addrCheckFail ↔ s.fstate = .parsingAddress ∧ s.bitIndex = 15#5 ∧
      ∃ b, (classify o s).2 = dataSymbol b ∧ addressMatches s.cfg (writeBit s.address 15 b) = false := by
  constructor
  · intro he
    have hr := parse_row o s
    generalize parse o s = t at hr he
    cases hr with
    | addressRestart b hf hy hi hm | addressContinue b hf hy hi hm => exact ⟨hf, hi, b, hy, hm⟩
    | _ => simp [ite_eq_iff] at he
  · rintro ⟨hf, hi, b, hy, hm⟩
    cases hp : s.cfg.addrFailPolicy with
    | restart => rw [parse_lastAddressBit_restart hf hy hi storedAt_writeBit hm hp]
    | continueOn => rw [parse_lastAddressBit_continue hf hy hi storedAt_writeBit hm hp]

theorem parse_cmdCheckFail_iff :
    (parse o s).out.diag = .cmdCheckFail ↔ s.fstate = .parsingCommand ∧ s.bitIndex = 15#5 ∧
      ∃ b, (classify o s).2 = dataSymbol b ∧ commandValid (writeBit s.command 15 b) = false := by
  constructor
  · intro he
    have hr := parse_row o s
    generalize parse o s = t at hr he
    cases hr with
    | commandInvalid b hf hy hi hm => exact ⟨hf, hi, b, hy, hm⟩
    | _ => simp [ite_eq_iff] at he
  · rintro ⟨hf, hi, b, hy, hm⟩
    rw [parse_lastCommandBit_invalid hf hy hi storedAt_writeBit hm]

/-! ### How a step leaves a field -/

/-- The rows that report an event in a field end in the full reset, but for row 9. -/
theorem parseRow_event_in_field (hr : ParseRow o s t) (hf : s.fstate ≠ .parsingLeader) (he : t.out.diag ≠ .noEvent) :
    t.RegistersReset ∨
      (s.cfg.addrFailPolicy = .continueOn ∧ t.out.diag = .addrCheckFail ∧ t.fstate = .parsingCommand) := by
  cases hr with
  | invalid | sequence | addressRestart | commandValid | commandInvalid => exact .inl (enterLeader_registersReset _)
  | addressContinue _ _ _ _ _ hp => exact .inr ⟨hp, rfl, rfl⟩
  | ignored hl | leader hl => exact absurd hl hf
  | pending | addressBit | addressMatch | commandBit => simp at he

/-- The rows that lead from a field to `ParsingLeader` are those of the full reset. -/
theorem parseRow_field_to_leader (hr : ParseRow o s t) (hf : s.fstate ≠ .parsingLeader)
    (ht : t.fstate = .parsingLeader) : t.RegistersReset := by
  cases hr with
  | invalid | sequence | addressRestart | commandValid | commandInvalid => exact enterLeader_registersReset _
  | pending | ignored | addressBit | commandBit => exact absurd ht hf
  | leader | addressMatch | addressContinue => cases ht

end EventsAndBytes

/-- Settles O37: the row that emits, whose result is that of a low segment; what its check says of the bits. -/
theorem byteIsEmittedOnlyForAValidCommand : Obligations.ByteIsEmittedOnlyForAValidCommand := by
  intro i s t b h hb
  obtain ⟨-, rfl⟩ := exec_eq_next.1 h
  obtain ⟨d, rfl, -, hr⟩ := effect_emits hb
  obtain ⟨hf, hi, hreset, hdiag, x, hy, hvalid, rfl⟩ := parseRow_emits hr hb
  obtain ⟨hbits, hlast⟩ := command_bits_of_valid hvalid
  rw [lowByte_writeBit_fifteen]
  have hlow : ∀ j < 8, (lowByte s.command).getLsbD j = s.command.getLsbD j := fun j hj => by simp [lowByte, hj]
  refine ⟨⟨d, rfl⟩, hf, hi, hreset, hdiag, rfl, fun j hj => ?_, ?_⟩
  · rw [hlow j (by omega), hbits j hj]
  · rw [hlow 7 (by omega), ← hlast]
    exact parse_sym.trans hy

/-- Settles O38: an equivalence for each event along the rows of the transition table; no transaction but an
observation runs `parse`. -/
theorem eventsAreReportedExactlyWhen : Obligations.EventsAreReportedExactlyWhen := by
  constructor
  · intro s t o h
    obtain ⟨-, rfl⟩ := (exec_obsInstr o).1 h
    exact ⟨parseRow_timingMismatch_iff (parse_row o s), parse_sequenceViolation_iff, parse_addrCheckFail_iff,
      parse_cmdCheckFail_iff⟩
  · intro s t i hi h
    obtain ⟨-, rfl⟩ := exec_eq_next.1 h
    exact not_obsInstr_silent hi s

/-- Settles O40, row by row of the transition table. -/
theorem eventInAFieldEndsInTheResetState : Obligations.EventInAFieldEndsInTheResetState := by
  intro s t o h hf he
  obtain ⟨-, rfl⟩ := (exec_obsInstr o).1 h
  exact parseRow_event_in_field (parse_row o s) hf he

/-- Settles O41: `RESET` is the full reset, an observation leaves a field by it, and no other transaction leaves one. -/
theorem returnToLeaderSeekingIsAFullReset : Obligations.ReturnToLeaderSeekingIsAFullReset := by
  intro i s t h hf ht
  obtain ⟨-, rfl⟩ := exec_eq_next.1 h
  cases i with
  | reset => exact frameReset_registersReset s
  | obsH | obsL => exact parseRow_field_to_leader (parse_row _ s) hf ht
  | nop | symReset | symNop => exact absurd ht hf
  | symClassifyH | symClassifyL => exact absurd (classifyAlone_fstate.symm.trans ht) hf

end Sys2Proof.Machine

namespace Sys2Proof.Machine

section StepsToByte

variable {s t : State} {o : Observation} {i : Instr}

/-! ### How many steps a byte is away (41_frame_assembler.md R97 (d)) -/

/-- Every step is the effect of one transaction, a cycle of `rst` that of `RESET`. -/
theorem step_effect (h : step s = .next t) : ∃ i cs, t = effect i { s with input := cs } := by
  obtain ⟨-, ⟨hnil, rfl⟩ | ⟨-, cs, -, -, rfl⟩ | ⟨-, cs, i, -, -, -, rfl⟩⟩ := step_cases h
  · exact ⟨idleInstr s.port, s.input, rfl⟩
  · exact ⟨.reset, cs, rfl⟩
  · exact ⟨i, cs, rfl⟩

/-- The symbols still to come before a byte can be emitted. -/
def symbolsToByte (s : State) : Nat :=
  match s.fstate with
  | .parsingLeader => 33
  | .parsingAddress => 32 - s.bitIndex.toNat
  | .parsingCommand => 16 - s.bitIndex.toNat

/-- The steps still to come before a byte can be emitted: two a symbol, the first of them taken in `WaitLow`. -/
def stepsToByte (s : State) : Nat :=
  match s.sstate with
  | .waitHigh => 2 * symbolsToByte s
  | .waitLow => 2 * symbolsToByte s - 1

theorem symbolsToByte_leader (hf : s.fstate = .parsingLeader) : symbolsToByte s = 33 := by
  simp only [symbolsToByte, hf]

theorem symbolsToByte_address (hf : s.fstate = .parsingAddress) : symbolsToByte s = 32 - s.bitIndex.toNat := by
  simp only [symbolsToByte, hf]

theorem symbolsToByte_command (hf : s.fstate = .parsingCommand) : symbolsToByte s = 16 - s.bitIndex.toNat := by
  simp only [symbolsToByte, hf]

theorem stepsToByte_waitHigh (hs : s.sstate = .waitHigh) : stepsToByte s = 2 * symbolsToByte s := by
  simp only [stepsToByte, hs]

theorem stepsToByte_waitLow (hs : s.sstate = .waitLow) : stepsToByte s = 2 * symbolsToByte s - 1 := by
  simp only [stepsToByte, hs]

theorem symbolsToByte_le (s : State) : symbolsToByte s ≤ 33 := by
  cases hf : s.fstate with
  | parsingLeader => rw [symbolsToByte_leader hf]
  | parsingAddress => rw [symbolsToByte_address hf]; omega
  | parsingCommand => rw [symbolsToByte_command hf]; omega

theorem symbolsToByte_of_frame (h : SameFrameRegisters s t) : symbolsToByte t = symbolsToByte s := by
  obtain ⟨hf, -, -, hi⟩ := h
  rw [symbolsToByte, symbolsToByte, hf, hi]

theorem stepsToByte_bounds (s : State) :
    2 * symbolsToByte s - 1 ≤ stepsToByte s ∧ stepsToByte s ≤ 2 * symbolsToByte s := by
  cases hs : s.sstate with
  | waitHigh => rw [stepsToByte_waitHigh hs]; omega
  | waitLow => rw [stepsToByte_waitLow hs]; omega

theorem stepsToByte_of_registersReset (h : s.RegistersReset) : stepsToByte s = 66 := by
  obtain ⟨hs, -, hf, -, -, -⟩ := h
  rw [stepsToByte_waitHigh hs, symbolsToByte_leader hf]

/-- A step that leaves the frame registers brings a byte nearer by one step at most. -/
theorem stepsToByte_of_frame (h : SameFrameRegisters s t) : stepsToByte s ≤ stepsToByte t + 1 := by
  have hs := (stepsToByte_bounds s).2
  have ht := (stepsToByte_bounds t).1
  rw [symbolsToByte_of_frame h] at ht
  omega

/-- A full reset brings no byte nearer. -/
theorem stepsToByte_of_reset (h : t.RegistersReset) : stepsToByte s ≤ stepsToByte t + 1 := by
  have hs := (stepsToByte_bounds s).2
  have hle := symbolsToByte_le s
  rw [stepsToByte_of_registersReset h]
  omega

/-- A symbol is complete in `WaitLow` only, and brings a byte nearer by one symbol at most. -/
theorem stepsToByte_of_symbol (hs : s.sstate = .waitLow) (ht : t.sstate = .waitHigh)
    (h : symbolsToByte s ≤ symbolsToByte t + 1) : stepsToByte s ≤ stepsToByte t + 1 := by
  rw [stepsToByte_waitLow hs, stepsToByte_waitHigh ht]
  omega

theorem bitIndex_succ_toNat_le (x : BitVec 5) : (x + 1#5).toNat ≤ x.toNat + 1 := by
  rw [BitVec.toNat_add]
  exact Nat.mod_le _ _

/-- Every row of the transition table brings a byte nearer by one step at most; the rows that move on need a
symbol, which only `WaitLow` completes (40_symbol_classifier.md R69). -/
theorem parseRow_stepsToByte (hr : ParseRow o s t) : stepsToByte s ≤ stepsToByte t + 1 := by
  have hindex := bitIndex_succ_toNat_le s.bitIndex
  have hlow : (classify o s).2 ≠ .pending → (classify o s).2 ≠ .none → s.sstate = .waitLow :=
    fun hp hn => (classify_concrete hp hn).1
  cases hr with
  | pending | ignored => exact stepsToByte_of_frame ⟨rfl, rfl, rfl, rfl⟩
  | invalid | sequence | addressRestart | commandValid | commandInvalid =>
    exact stepsToByte_of_reset (enterLeader_registersReset _)
  | leader hf hy =>
    refine stepsToByte_of_symbol (hlow (by simp [hy]) (by simp [hy])) rfl ?_
    rw [symbolsToByte_leader hf, symbolsToByte_address rfl, enterAddress_bitIndex]
    decide
  | addressBit b hf hy =>
    refine stepsToByte_of_symbol (hlow (by simp [hy]) (by simp [hy])) rfl ?_
    rw [symbolsToByte_address hf, symbolsToByte_address (s := storeBit .address b (afterData b s)) hf]
    simp only [storeBit_address_bitIndex, startOutputs_bitIndex, symReset_bitIndex]
    omega
  | commandBit b hf hy =>
    refine stepsToByte_of_symbol (hlow (by simp [hy]) (by simp [hy])) rfl ?_
    rw [symbolsToByte_command hf, symbolsToByte_command (s := storeBit .command b (afterData b s)) hf]
    simp only [storeBit_command_bitIndex, startOutputs_bitIndex, symReset_bitIndex]
    omega
  | addressMatch b hf hy hi | addressContinue b hf hy hi =>
    refine stepsToByte_of_symbol (hlow (by simp [hy]) (by simp [hy])) rfl ?_
    rw [symbolsToByte_address hf, symbolsToByte_command rfl, enterCommand_bitIndex, hi]
    decide

/-- A transaction brings a byte nearer by one step at most. -/
theorem effect_stepsToByte (i : Instr) (s : State) : stepsToByte s ≤ stepsToByte (effect i s) + 1 := by
  cases i with
  | reset => exact stepsToByte_of_reset (frameReset_registersReset s)
  | obsH | obsL => exact parseRow_stepsToByte (parse_row _ s)
  | nop | symReset | symNop => exact stepsToByte_of_frame ⟨rfl, rfl, rfl, rfl⟩
  | symClassifyH | symClassifyL => exact stepsToByte_of_frame classifyAlone_frame

/-- A byte is emitted only by the step that completes its last symbol. -/
theorem effect_cmd_of_far (h : 1 < stepsToByte s) : (effect i s).out.cmd = none := by
  rw [Option.eq_none_iff_forall_ne_some]
  intro b hb
  obtain ⟨d, -, hs, hr⟩ := effect_emits hb
  obtain ⟨hf, hi, -⟩ := parseRow_emits hr hb
  rw [stepsToByte_waitLow hs, symbolsToByte_command hf, hi] at h
  exact absurd h (by decide)

/-- A run that is shorter than the way to a byte emits none. -/
theorem emittedBytes_of_far {k : Nat} {os : List Output} (hk : k < stepsToByte s) (h : trace k s = some (os, t)) :
    emittedBytes os = [] := by
  induction k generalizing s os with
  | zero =>
    obtain ⟨rfl, -⟩ : [] = os ∧ s = t := by simpa [trace] using h
    rfl
  | succ k ih =>
    cases hstep : step s with
    | next u =>
      rw [trace_succ hstep, Option.map_eq_some_iff] at h
      obtain ⟨⟨os', v⟩, hrest, heq⟩ := h
      obtain ⟨rfl, rfl⟩ := Prod.mk.inj heq
      obtain ⟨i, cs, rfl⟩ := step_effect hstep
      have hnear : stepsToByte s ≤ _ := effect_stepsToByte i { s with input := cs }
      have hcmd := effect_cmd_of_far (s := { s with input := cs }) (i := i) (show 1 < stepsToByte s by omega)
      rw [emittedBytes, List.filterMap_cons_none hcmd]
      exact ih (by omega) hrest
    | fault f => simp [trace, hstep] at h
    | refused r => simp [trace, hstep] at h

end StepsToByte

/-- Settles O59: the reset state is 66 steps away from a byte, and each step brings it nearer by one at most. -/
theorem noByteInFewerThan66Steps : Obligations.NoByteInFewerThan66Steps := by
  intro k s t os hk hreset h
  exact emittedBytes_of_far (by rwa [stepsToByte_of_registersReset hreset]) h

end Sys2Proof.Machine

namespace Sys2Proof.Machine

section FramesWithAFault

variable {s t u : State} {c : Config} {a0 a1 c0 c1 : Byte} {p : Nat × Nat} {ps qs : List (Nat × Nat)}
  {cs : List Cycle}

/-! ### Frames that fail a check -/

theorem trace_append {k k' : Nat} {os os' : List Output} (h : trace k s = some (os, t))
    (h' : trace k' t = some (os', u)) :
    trace (k + k') s = some (os ++ os', u) := by
  rw [trace_add, h, Option.bind_some, h', Option.map_some]

theorem registersReset_ready (hr : s.RegistersReset) (hc : s.cfg = c) (hport : s.port = .top) (hi : s.input = cs) :
    Ready c .parsingLeader cs s := by
  obtain ⟨hs, -, hf, -, -, -⟩ := hr
  exact ⟨hc, hport, hf, hs, hi⟩

/-- A frame up to the validation of its address, with the pairs of its command to come. -/
theorem frameAddress_run (ha : c.Admitted) (hd : ProfilesDistinct c)
    (h : Ready c .parsingLeader (presentAll c.durW (pairObservations ps) ++ cs) s)
    (hframe : CarriesFrame c a0 a1 c0 c1 ps)
    (hw : ∀ p ∈ ps, p.1 < 2 ^ c.durW ∧ p.2 < 2 ^ c.durW) :
    ∃ qs t u, QuietRun 33 s t ∧ step t = .next (validateAddress u) ∧
      Filled c .address (fieldOf a0 a1) (presentAll c.durW (pairObservations qs) ++ cs) u ∧
      List.Forall₂ (CarriesBit c) (fieldBits c0 c1) qs ∧ ∀ p ∈ qs, p.1 < 2 ^ c.durW ∧ p.2 < 2 ^ c.durW := by
  obtain ⟨p, as, qs, rfl, hleader, haddress, hcommand⟩ := carriesFrame_split hframe
  rw [← List.cons_append, presentAll_pairObservations_append, List.append_assoc] at h
  rw [← List.cons_append, List.forall_mem_append] at hw
  obtain ⟨hwas, hwqs⟩ := hw
  obtain ⟨t, u, hquiet, hstep, hu⟩ := address_run ha hd h hleader haddress hwas
  exact ⟨qs, t, u, hquiet, hstep, hu, hcommand, hwqs⟩

theorem addressMatches_of_filled (hu : Filled c .address (fieldOf a0 a1) cs u) :
    addressMatches u.cfg u.address = true ↔ a0 = c.expAddrLow ∧ a1 = c.expAddrHigh := by
  rw [addressMatches_iff, hu.cfg, show u.address = _ from hu.field, lowByte_fieldOf, highByte_fieldOf]

theorem commandValid_of_filled (hu : Filled c .command (fieldOf c0 c1) cs u) :
    commandValid u.command = true ↔ c0 = ~~~c1 := by
  rw [commandValid_iff, show u.command = _ from hu.field, lowByte_fieldOf, highByte_fieldOf]

/-- A pair that carries a data bit is ignored while a leader is sought. -/
theorem ignoredBit_run {b : Bool} (ha : c.Admitted) (hd : ProfilesDistinct c) (hr : s.RegistersReset)
    (h : Ready c .parsingLeader (presentAll c.durW (pairObservations (p :: qs)) ++ cs) s) (hbit : CarriesBit c b p)
    (hw : p.1 < 2 ^ c.durW ∧ p.2 < 2 ^ c.durW) :
    ∃ t, QuietRun 2 s t ∧ t.RegistersReset ∧
      Ready c .parsingLeader (presentAll c.durW (pairObservations qs) ++ cs) t := by
  obtain ⟨hhigh, hsym⟩ := bit_symbol hd hbit
  obtain ⟨t, hquiet, hstep⟩ := pair_steps ha h hw hhigh hsym
  rw [afterPair, h.fstate, frameArm, leaderArm_of_ne_leader (dataSymbol_ne_leader b)] at hstep
  obtain ⟨-, -, -, haddress, hcommand, hindex⟩ := hr
  exact ⟨_, hquiet.trans (.single hstep rfl (by simp)), ⟨rfl, rfl, rfl, haddress, hcommand, hindex⟩,
    ⟨h.cfg, h.port, rfl, rfl, rfl⟩⟩

/-- Any number of data bits are ignored while a leader is sought. -/
theorem ignoredBits_run {bs : List Bool} (ha : c.Admitted) (hd : ProfilesDistinct c) (hr : s.RegistersReset)
    (h : Ready c .parsingLeader (presentAll c.durW (pairObservations qs) ++ cs) s)
    (hbits : List.Forall₂ (CarriesBit c) bs qs) (hw : ∀ p ∈ qs, p.1 < 2 ^ c.durW ∧ p.2 < 2 ^ c.durW) :
    ∃ t, QuietRun (2 * bs.length) s t ∧ t.RegistersReset ∧ t.input = cs := by
  induction hbits generalizing s with
  | nil => exact ⟨s, .refl s, hr, h.input⟩
  | cons hbit _ ih =>
    obtain ⟨hwp, hwqs⟩ := List.forall_mem_cons.1 hw
    obtain ⟨v, hquiet, hrv, hv⟩ := ignoredBit_run ha hd hr h hbit hwp
    obtain ⟨t, hquiet', hrt, hinput⟩ := ih hrv hv hwqs
    rw [List.length_cons, Nat.mul_succ, Nat.add_comm]
    exact ⟨t, hquiet.trans hquiet', hrt, hinput⟩

/-- A command and its complement, received from the first bit on, whatever the address was. -/
theorem command_run {b : Byte} (ha : c.Admitted) (hd : ProfilesDistinct c)
    (h : Collecting c .command (fieldOf b (~~~b)) 0 (presentAll c.durW (pairObservations qs) ++ cs) s)
    (hbits : List.Forall₂ (CarriesBit c) (fieldBits b (~~~b)) qs)
    (hw : ∀ p ∈ qs, p.1 < 2 ^ c.durW ∧ p.2 < 2 ^ c.durW) :
    ∃ t u, QuietRun 31 s t ∧ step t = .next u ∧ u.out.cmd = some b ∧ u.out.diag = .noEvent ∧
      u.RegistersReset ∧ u.input = cs := by
  obtain ⟨t, u, hquiet, hstep, hu⟩ := wholeField_run ha hd h hbits hw
  rw [validateField, validateCommand_of_valid ((commandValid_of_filled hu).2 (BitVec.not_not).symm),
    show u.command = _ from hu.field, lowByte_fieldOf] at hstep
  exact ⟨t, _, hquiet, hstep, rfl, hu.diag, enterLeader_registersReset _, hu.input⟩

/-- An event is reported only by an observation at the block's port. -/
theorem step_event (h : step s = .next t) (he : t.out.diag ≠ .noEvent) :
    ∃ o cs, t = parse o { s with input := cs } := by
  obtain ⟨i, cs, rfl⟩ := step_effect h
  by_cases hobs : ∃ o, i = obsInstr o
  · obtain ⟨o, rfl⟩ := hobs
    exact ⟨o, cs, by rw [effect_obsInstr]⟩
  · exact absurd (not_obsInstr_silent (not_exists.1 hobs) _).1 he

end FramesWithAFault

/-- Settles O53: the run of a valid frame is quiet up to the step that emits its byte. -/
theorem validFrameEmitsItsCommandOnce : Obligations.ValidFrameEmitsItsCommandOnce := by
  intro s b ps rest ha hd hport hf hs hframe hw hi
  obtain ⟨t, u, hquiet, hstep, hcmd, hdiag, hreset, hinput⟩ :=
    validFrame_run ha hd ⟨rfl, hport, hf, hs, hi⟩ hframe hw
  obtain ⟨os, htrace, hcmds, hdiags⟩ := hquiet.trace_then_step hstep
  exact ⟨os, u, htrace, by rw [hcmds, hcmd], by rw [hdiags, hdiag]; rfl, hreset, hinput⟩

/-- Settles O55: the failed check restarts, and the pairs of the command are ignored for want of a leader. -/
theorem wrongAddressFrameIsDroppedWhole : Obligations.WrongAddressFrameIsDroppedWhole := by
  intro s a0 a1 c0 c1 ps rest ha hd hport hpolicy hf hs hno hframe hw hi
  obtain ⟨qs, t, u, hquiet, hstep, hu, hbits, hwqs⟩ := frameAddress_run ha hd ⟨rfl, hport, hf, hs, hi⟩ hframe hw
  have hm : addressMatches u.cfg u.address = false := by rwa [Bool.eq_false_iff, Ne, addressMatches_of_filled hu]
  rw [validateAddress_of_restart hm (by rw [hu.cfg, hpolicy])] at hstep
  have hreset := takeEvent_registersReset .addrCheckFail u
  obtain ⟨v, hignored, hrv, hinput⟩ :=
    ignoredBits_run ha hd hreset (registersReset_ready hreset hu.cfg hu.port hu.input) hbits hwqs
  rw [fieldBits_length] at hignored
  obtain ⟨os, htrace, hcmds, hdiags⟩ := hquiet.trace_then_step hstep
  obtain ⟨os', htrace', hcmds', hdiags'⟩ := hignored.trace
  refine ⟨os ++ os', v, trace_append htrace htrace', ?_, ?_, hrv, hinput⟩
  · rw [emittedBytes_eq_filterMap_cmd, List.map_append, hcmds, hcmds', takeEvent_out, hu.cmd]
    rfl
  · rw [List.map_append, hdiags, hdiags', takeEvent_out]

/-- Settles O56: the failed check goes on to the command, whose own check then decides. -/
theorem continuePolicyDecodesDespiteTheAddress : Obligations.ContinuePolicyDecodesDespiteTheAddress := by
  intro s a0 a1 b ps rest ha hd hport hpolicy hf hs hno hframe hw hi
  obtain ⟨qs, t, u, hquiet, hstep, hu, hbits, hwqs⟩ := frameAddress_run ha hd ⟨rfl, hport, hf, hs, hi⟩ hframe hw
  have hm : addressMatches u.cfg u.address = false := by rwa [Bool.eq_false_iff, Ne, addressMatches_of_filled hu]
  rw [validateAddress_of_continue hm (by rw [hu.cfg, hpolicy])] at hstep
  obtain ⟨v, w, hquiet', hlast, hcmd, hdiag, hreset, hinput⟩ :=
    command_run ha hd (s := enterCommand (raise .addrCheckFail u))
      ⟨⟨hu.cfg, hu.port, rfl, hu.sstate, hu.input⟩, rfl, bitsBelow_zero⟩ hbits hwqs
  obtain ⟨os, htrace, hcmds, hdiags⟩ := hquiet.trace_then_step hstep
  obtain ⟨os', htrace', hcmds', hdiags'⟩ := hquiet'.trace_then_step hlast
  refine ⟨os ++ os', w, trace_append htrace htrace', ?_, ?_, hreset, hinput⟩
  · rw [List.map_append, hcmds, hcmds', hcmd, enterCommand_out, raise_out, hu.cmd]
    rfl
  · rw [List.map_append, hdiags, hdiags', hdiag, enterCommand_out, raise_out]
    rfl

/-- Settles O57: the address passes in a quiet step, and the last step is the command's failed check. -/
theorem badCommandPairFrameEmitsNothing : Obligations.BadCommandPairFrameEmitsNothing := by
  intro s c0 c1 ps rest ha hd hport hf hs hne hframe hw hi
  obtain ⟨qs, t, u, hquiet, hstep, hu, hbits, hwqs⟩ := frameAddress_run ha hd ⟨rfl, hport, hf, hs, hi⟩ hframe hw
  rw [validateAddress_of_match ((addressMatches_of_filled hu).2 ⟨rfl, rfl⟩)] at hstep
  obtain ⟨v, w, hquiet', hlast, hfilled⟩ := wholeField_run ha hd (collecting_enterCommand hu _) hbits hwqs
  have hinvalid : commandValid w.command = false := by rwa [Bool.eq_false_iff, Ne, commandValid_of_filled hfilled]
  rw [validateField, validateCommand_of_invalid hinvalid] at hlast
  obtain ⟨os, htrace, hcmds, hdiags⟩ :=
    ((hquiet.trans (.single hstep hu.cmd hu.diag)).trans hquiet').trace_then_step hlast
  refine ⟨os, _, htrace, ?_, ?_, takeEvent_registersReset _ _, hfilled.input⟩
  · rw [emittedBytes_eq_filterMap_cmd, hcmds, takeEvent_out, hfilled.cmd]
    rfl
  · rw [hdiags, takeEvent_out]

/-- Settles O58: the violation leaves the reset state, from which the next frame is a valid one. -/
theorem nextFrameAfterAViolationDecodes : Obligations.NextFrameAfterAViolationDecodes := by
  intro s t b ps rest hd hport hf hstep hevent hframe hw hi
  obtain ⟨ha, -⟩ := step_cases hstep
  obtain ⟨hcfg, htport, -⟩ := stepKeepsTheConfiguration s t hstep
  have he : t.out.diag ≠ .noEvent := by rcases hevent with h | h | h | ⟨h, -⟩ <;> simp [h]
  obtain ⟨o, cs, rfl⟩ := step_event hstep he
  have hreset : (parse o { s with input := cs }).RegistersReset := by
    refine (parseRow_event_in_field (parse_row o { s with input := cs }) hf he).resolve_right ?_
    rintro ⟨hcontinue, hdiag, -⟩
    rcases hevent with h | h | h | ⟨-, hrestart⟩
    · cases hdiag.symm.trans h
    · cases hdiag.symm.trans h
    · cases hdiag.symm.trans h
    · cases hcontinue.symm.trans hrestart
  obtain ⟨v, u, hquiet, hlast, hcmd, -, hru, hinput⟩ :=
    validFrame_run ha hd (registersReset_ready hreset hcfg (htport.trans hport) hi) hframe hw
  obtain ⟨os, htrace, hcmds, -⟩ := hquiet.trace_then_step hlast
  refine ⟨os, u, htrace, ?_, hru, hinput⟩
  rw [emittedBytes_eq_filterMap_cmd, hcmds, hcmd]
  rfl

end Sys2Proof.Machine

namespace Sys2Proof.Machine

section PortOperations

variable (d : Nat) (s : State)

/-! ### One observation of either level (42_port_operations.md R111, R112) -/

/-- A high observation completes no symbol: it is accepted, or it is invalid. -/
theorem classify_high_result :
    (classify ⟨.high, d⟩ s).2 = .pending ∨ (classify ⟨.high, d⟩ s).2 = .none := by
  by_contra! h
  obtain ⟨-, hlow, -⟩ := classify_concrete h.1 h.2
  cases hlow

/-- A low observation ends the pair: it is never accepted, and one without a high segment before it is invalid. -/
theorem classify_low :
    ∃ y, classify ⟨.low, d⟩ s = (symReset s, y) ∧ y ≠ .pending ∧ (s.sstate = .waitHigh → y = .none) := by
  cases hs : s.sstate with
  | waitHigh => exact ⟨_, classify_waitHigh_other hs (by simp), by simp, fun _ => rfl⟩
  | waitLow => exact ⟨_, classify_waitLow_low hs rfl, pairClass_ne_pending _ _ _, nofun⟩

theorem parse_high_cmd : (parse ⟨.high, d⟩ s).out.cmd = none := by
  rw [Option.eq_none_iff_forall_ne_some]
  intro b hb
  obtain ⟨_, hlow, -⟩ := effect_emits (i := .obsH d) hb
  cases hlow

end PortOperations

/-- Settles O33: a high observation is accepted, which touches the classifier alone, or it is invalid, which the leader
state ignores and a field answers with the full reset. -/
theorem highObservationNeverCompletesASymbol : Obligations.HighObservationNeverCompletesASymbol := by
  intro s d ha
  rcases classify_high_result d s with hy | hy
  · obtain ⟨t, hexec, hframe, -, hs, hout⟩ := pendingTouchesNoFrameRegister s ⟨.high, d⟩ ha hy
    exact ⟨t, hexec, by rw [hout], .inl ⟨by rw [hout], by rw [hout], hframe, hs⟩⟩
  · have hsym : (parse ⟨.high, d⟩ s).out.sym = .none := parse_sym.trans hy
    obtain ⟨hs, hp⟩ := parseRow_classifier (parse_row ⟨.high, d⟩ s)
    rw [classify_not_pending (by simp [hy])] at hs hp
    refine ⟨_, exec_admitted (.obsH d) ha, parse_high_cmd d s,
      .inr ⟨hsym, (parseRow_timingMismatch_iff (parse_row _ s)).2 hy, hs, hp, fun hf => ?_, fun hf => ?_⟩⟩
    · exact (parse_leader_frame hf).2 (by rw [hsym]; simp)
    · rw [effect, parse_none_in_field hf hy]
      exact enterLeader_registersReset _

/-- Settles O34: both arms of a low observation return the classifier to `WaitHigh` with a result. -/
theorem lowObservationAlwaysEndsThePair : Obligations.LowObservationAlwaysEndsThePair := by
  intro s d ha
  obtain ⟨y, hc, hne, hnone⟩ := classify_low d s
  obtain ⟨t, hexec, hs, hp, hy⟩ := exec_obs_of_done ha hc
  obtain ⟨-, rfl⟩ := (exec_obsInstr _).1 hexec
  refine ⟨_, hexec, by rwa [hy], hs, hp, fun hw => ⟨hy.trans (hnone hw), ?_⟩⟩
  exact (parseRow_timingMismatch_iff (parse_row _ s)).2 (by rw [hc, hnone hw])

/-- Settles O36: the transaction writes the outputs alone. -/
theorem nopChangesNoRegister : Obligations.NopChangesNoRegister :=
  fun _ ha => exec_admitted .nop ha

/-- A cycle in which nothing is presented is `NOP` at the block's port and `SYM.NOP` at the classifier's. -/
theorem step_nil {s : State} (ha : s.cfg.Admitted) (hi : s.input = []) : step s = .next (quietOutputs .pending s) := by
  simp only [step, fetch_nil ha hi]
  cases s.port with
  | top => exact exec_admitted .nop ha
  | sym => exact exec_admitted .symNop ha

/-- Settles O46: the cycle without a call writes the outputs alone at either port. -/
theorem nothingPresentedNothingChanges : Obligations.NothingPresentedNothingChanges :=
  fun _ => step_nil

section Runs

variable {s t : State}

/-! ### Runs on any input the block can be given (R110, R117) -/

/-- A cycle of `rst` is the full reset, whatever is presented with it (70_reset_and_hazards.md R141). -/
theorem step_rst {w : TxWord} {cs : List Cycle} (ha : s.cfg.Admitted) (hi : s.input = ⟨true, w⟩ :: cs) :
    step s = .next (frameReset { s with input := cs }) := by
  simp only [step, fetch_cons ha hi, fetchCycle, if_true]
  exact exec_admitted .reset ha

/-- A step is taken on an exhausted input, on a cycle of `rst`, and on every word of `3 + DUR_W` bits. -/
theorem step_of_inputFits (ha : s.cfg.Admitted) (hfits : s.InputFits) : ∃ t, step s = .next t := by
  cases hi : s.input with
  | nil => exact ⟨_, step_nil ha hi⟩
  | cons c cs =>
    obtain ⟨rst, w⟩ := c
    cases rst with
    | true => exact ⟨_, step_rst ha hi⟩
    | false =>
      have hw : FitsTxWord s.cfg.durW w := by simpa using hfits ⟨false, w⟩ (by simp [hi])
      rw [stepRunsTheDecodedTransaction s w cs _ ha hi (decode_fits hw)]
      exact ⟨_, exec_admitted _ ha⟩

theorem inputFits_of_step (hfits : s.InputFits) (h : step s = .next t) : t.InputFits := by
  obtain ⟨hcfg, -, hinput⟩ := stepKeepsTheConfiguration s t h
  rw [State.InputFits, hcfg, hinput]
  exact fun c hc => hfits c (List.mem_of_mem_tail hc)

end Runs

/-- Settles O51, by induction on the number of steps: each step leaves a configuration and an input that the next one
can be taken with. -/
theorem blockNeverHalts : Obligations.BlockNeverHalts := by
  intro k
  induction k with
  | zero => exact fun s _ _ => ⟨[], s, rfl, rfl, rfl, rfl⟩
  | succ k ih =>
    intro s ha hfits
    obtain ⟨t, hstep⟩ := step_of_inputFits ha hfits
    obtain ⟨hcfg, -, hinput⟩ := stepKeepsTheConfiguration s t hstep
    obtain ⟨os, u, htrace, hlength, hdrop, hkeep⟩ := ih t (by rwa [hcfg]) (inputFits_of_step hfits hstep)
    refine ⟨t.out :: os, u, ?_, by rw [List.length_cons, hlength], ?_, hkeep.trans hcfg⟩
    · rw [trace_succ hstep, htrace, Option.map_some]
    · rw [hdrop, hinput, List.drop_tail]

section Input

variable (s : State) (cs : List Cycle)

/-! ### No transaction reads the input to come -/

theorem classify_withInput (o : Observation) :
    classify o { s with input := cs } = ({ (classify o s).1 with input := cs }, (classify o s).2) := by
  rcases classify_cases o s with ⟨hs, hl, hm, e⟩ | ⟨hs, hn, e⟩ | ⟨hs, hl, e⟩ | ⟨hs, hl, e⟩ <;> rw [e]
  · exact classify_waitHigh_profile (s := { s with input := cs }) hs hl hm
  · exact classify_waitHigh_other (s := { s with input := cs }) hs hn
  · exact classify_waitLow_high (s := { s with input := cs }) hs hl
  · exact classify_waitLow_low (s := { s with input := cs }) hs hl

theorem validateAddress_withInput :
    validateAddress { s with input := cs } = { validateAddress s with input := cs } := by
  cases hm : addressMatches s.cfg s.address with
  | true =>
    rw [validateAddress_of_match hm]
    exact validateAddress_of_match (s := { s with input := cs }) hm
  | false =>
    cases hp : s.cfg.addrFailPolicy with
    | restart =>
      rw [validateAddress_of_restart hm hp]
      exact validateAddress_of_restart (s := { s with input := cs }) hm hp
    | continueOn =>
      rw [validateAddress_of_continue hm hp]
      exact validateAddress_of_continue (s := { s with input := cs }) hm hp

theorem validateCommand_withInput :
    validateCommand { s with input := cs } = { validateCommand s with input := cs } := by
  cases hm : commandValid s.command with
  | true =>
    rw [validateCommand_of_valid hm]
    exact validateCommand_of_valid (s := { s with input := cs }) hm
  | false =>
    rw [validateCommand_of_invalid hm]
    exact validateCommand_of_invalid (s := { s with input := cs }) hm

theorem validateField_withInput (r : FieldReg) :
    validateField r { s with input := cs } = { validateField r s with input := cs } := by
  cases r with
  | address => exact validateAddress_withInput s cs
  | command => exact validateCommand_withInput s cs

theorem storeBit_withInput (r : FieldReg) (b : Bool) :
    storeBit r b { s with input := cs } = { storeBit r b s with input := cs } := by
  cases r <;> rfl

theorem dataBit_withInput (r : FieldReg) (b : Bool) :
    dataBit r b (validateField r) { s with input := cs } = { dataBit r b (validateField r) s with input := cs } := by
  by_cases hi : s.bitIndex = 15#5
  · rw [dataBit_of_last hi, ← validateField_withInput, ← storeBit_withInput]
    exact dataBit_of_last (s := { s with input := cs }) hi
  · rw [dataBit_of_not_last hi, ← storeBit_withInput]
    exact dataBit_of_not_last (s := { s with input := cs }) hi

theorem fieldArm_withInput (r : FieldReg) (y : SymResult) :
    fieldArm r (validateField r) y { s with input := cs } =
      { fieldArm r (validateField r) y s with input := cs } := by
  cases y with
  | data0 | data1 => exact dataBit_withInput s cs r _
  | leader | none | pending => rfl

theorem frameArm_withInput (f : FState) (y : SymResult) :
    frameArm f y { s with input := cs } = { frameArm f y s with input := cs } := by
  cases f with
  | parsingLeader => cases y <;> rfl
  | parsingAddress => exact fieldArm_withInput s cs .address y
  | parsingCommand => exact fieldArm_withInput s cs .command y

theorem parse_withInput (o : Observation) : parse o { s with input := cs } = { parse o s with input := cs } := by
  rw [parse, classify_withInput]
  exact frameArm_withInput (startOutputs (classify o s).2 (classify o s).1) cs s.fstate _

theorem classifyAlone_withInput (o : Observation) :
    classifyAlone o { s with input := cs } = { classifyAlone o s with input := cs } := by
  rw [classifyAlone, classify_withInput]
  rfl

theorem effect_withInput (i : Instr) : effect i { s with input := cs } = { effect i s with input := cs } := by
  cases i with
  | reset | nop | symReset | symNop => rfl
  | obsH | obsL => exact parse_withInput s cs _
  | symClassifyH | symClassifyL => exact classifyAlone_withInput s cs _

end Input

section PresentedLists

variable {s t u : State} {i : Instr} {is : List Instr} {os os' : List Output} {x : Output}

/-! ### Runs over a list of transactions -/

/-- The state `s` with the transactions `is` to come, in their canonical words. -/
abbrev presenting (is : List Instr) (s : State) : State := { s with input := presentAll s.cfg.durW is }

theorem admitted_of_trace {k : Nat} {r : List Output × State} (h : trace (k + 1) s = some r) : s.cfg.Admitted := by
  cases hstep : step s with
  | next t => exact (step_cases hstep).1
  | fault f => simp [trace, hstep] at h
  | refused r => simp [trace, hstep] at h

theorem step_presenting_cons (ha : s.cfg.Admitted) (hport : i.port = s.port)
    (hw : i.wellFormed s.cfg.durW = true) : step (presenting (i :: is) s) = .next (presenting is (effect i s)) := by
  have hstep := step_canonicalWord (s := presenting (i :: is) s) ha hport hw rfl
  obtain ⟨hcfg, -, -⟩ := effect_keeps i s
  rwa [effect_withInput, effect_withInput, ← hcfg] at hstep

/-- A run over a list takes its first transaction, with the others still to come. -/
theorem trace_presenting_cons (hport : i.port = s.port) (hw : i.wellFormed s.cfg.durW = true)
    (h : trace (i :: is).length (presenting (i :: is) s) = some (os, t)) :
    ∃ outs, os = (effect i s).out :: outs ∧ trace is.length (presenting is (effect i s)) = some (outs, t) := by
  have ha : s.cfg.Admitted := admitted_of_trace (s := presenting (i :: is) s) h
  rw [List.length_cons, trace_succ (step_presenting_cons ha hport hw), Option.map_eq_some_iff] at h
  obtain ⟨⟨outs, v⟩, hrest, heq⟩ := h
  obtain ⟨rfl, rfl⟩ := Prod.mk.inj heq
  exact ⟨outs, rfl, hrest⟩

theorem emittedBytes_cons (x : Output) (os : List Output) :
    emittedBytes (x :: os) = x.cmd.toList ++ emittedBytes os := by
  cases hx : x.cmd <;> simp [emittedBytes, hx]

/-- A run with the `NOP`s of the list left out, from a state that may show other outputs, which nothing reads. -/
theorem trace_without_nops (hport : s.port = .top)
    (his : ∀ i ∈ is, i.port = .top ∧ i.wellFormed s.cfg.durW = true)
    (h : trace is.length (presenting is s) = some (os, t))
    (h' : trace (is.filter (· ≠ .nop)).length (presenting (is.filter (· ≠ .nop)) { s with out := x }) =
      some (os', u)) :
    emittedBytes os = emittedBytes os' ∧ SameFrameRegisters t u ∧ SameClassifierRegisters t u := by
  induction is generalizing s x os os' with
  | nil =>
    cases h
    cases h'
    exact ⟨rfl, ⟨rfl, rfl, rfl, rfl⟩, rfl, rfl⟩
  | cons i is ih =>
    obtain ⟨⟨hi, hw⟩, htail⟩ := List.forall_mem_cons.1 his
    have hport' : i.port = s.port := hi.trans hport.symm
    obtain ⟨outs, rfl, hrest⟩ := trace_presenting_cons hport' hw h
    obtain ⟨hcfg, hkeep, -⟩ := effect_keeps i s
    have htop : (effect i s).port = .top := hkeep.trans hport
    have htail' : ∀ j ∈ is, j.port = .top ∧ j.wellFormed (effect i s).cfg.durW = true := by rwa [hcfg]
    by_cases hnop : i = .nop
    · subst hnop
      rw [List.filter_cons_of_neg (by simp)] at h'
      exact ih (os := outs) htop htail' hrest h'
    · rw [List.filter_cons_of_pos (by simpa using hnop)] at h'
      obtain ⟨outs', rfl, hrest'⟩ := trace_presenting_cons (s := { s with out := x }) hport' hw h'
      rw [effect_withOut s x] at hrest' ⊢
      obtain ⟨hbytes, hregs⟩ := ih (x := (effect i s).out) htop htail' hrest hrest'
      exact ⟨by rw [emittedBytes_cons, emittedBytes_cons, hbytes], hregs⟩

end PresentedLists

/-- Settles O60, by induction on the list: a `NOP` leaves the registers and emits nothing, and the outputs it shows are
read by no later transaction. -/
theorem nopsAreInvisible : Obligations.NopsAreInvisible :=
  fun _ s _ _ _ _ hport his h h' => trace_without_nops (x := s.out) hport his h h'

end Sys2Proof.Machine

namespace Sys2Proof.Machine

section InvalidResults

variable {s t : State} {o : Observation}

/-! ### When a result is `None`, and how the block answers it (60_exceptions.md R122) -/

theorem pairClass_eq_none_iff {c : Config} {ph pc : Nat} :
    pairClass c ph pc = .none ↔
      ¬ (ph = c.leaderHigh ∧ pc = c.leaderLow) ∧ ¬ (ph = c.data0High ∧ pc = c.data0Low) ∧
        ¬ (ph = c.data1High ∧ pc = c.data1Low) := by
  simp only [pairClass, ite_eq_iff, reduceCtorEq, and_false, false_or, and_true]

/-- `None` in `WaitHigh`: the high segment fits no profile, or the segment is low. -/
theorem classify_none_waitHigh_iff (hs : s.sstate = .waitHigh) :
    (classify o s).2 = .none ↔
      (o.level = .high ∧ ¬ IsProfileHigh s.cfg (pulseCount s.cfg o.duration)) ∨ o.level = .low := by
  cases hl : o.level with
  | low => simp [classify_waitHigh_other (o := o) hs (by simp [hl])]
  | high =>
    by_cases hm : IsProfileHigh s.cfg (pulseCount s.cfg o.duration)
    · simp [classify_waitHigh_profile hs hl (highMatch_iff.2 hm), acceptHigh, hm]
    · simp [classify_waitHigh_other (o := o) hs fun h => hm (highMatch_iff.1 h.2), hm]

/-- `None` in `WaitLow`: a second high segment, or a pair that is no profile. -/
theorem classify_none_waitLow_iff (hs : s.sstate = .waitLow) :
    (classify o s).2 = .none ↔
      o.level = .high ∨
        (o.level = .low ∧ pairClass s.cfg s.pendingHigh (pulseCount s.cfg o.duration) = .none) := by
  cases hl : o.level with
  | high => simp [classify_waitLow_high hs hl]
  | low => simp [classify_waitLow_low hs hl]

/-- The answer to an invalid result: the classifier is reset, and a field with it. -/
theorem parse_none_handling (hy : (classify o s).2 = .none) :
    (parse o s).sstate = .waitHigh ∧ (parse o s).pendingHigh = 0 ∧
      (s.fstate = .parsingLeader → SameFrameRegisters s (parse o s)) ∧
      (s.fstate ≠ .parsingLeader → (parse o s).RegistersReset) := by
  obtain ⟨hs, hp⟩ := parseRow_classifier (parse_row o s)
  rw [classify_not_pending (by simp [hy])] at hs hp
  refine ⟨hs, hp, fun hf => (parse_leader_frame hf).2 (by simp [hy]), fun hf => ?_⟩
  rw [parse_none_in_field hf hy]
  exact enterLeader_registersReset _

/-- No byte is emitted beside an event (41_frame_assembler.md R95). -/
theorem parseRow_cmd_of_event (hr : ParseRow o s t) (he : t.out.diag ≠ .noEvent) : t.out.cmd = none := by
  rw [Option.eq_none_iff_forall_ne_some]
  intro b hb
  obtain ⟨-, -, -, hquiet, -⟩ := parseRow_emits hr hb
  exact he hquiet

end InvalidResults

/-- Settles O29: the event is the result `None`, whose causes are two in each state of the classifier. -/
theorem timingMismatchHasFourCauses : Obligations.TimingMismatchHasFourCauses := by
  intro s t o h
  obtain ⟨-, rfl⟩ := (exec_obsInstr o).1 h
  have hevent := parseRow_timingMismatch_iff (parse_row o s)
  constructor
  · rw [hevent]
    cases hs : s.sstate with
    | waitHigh => simp [classify_none_waitHigh_iff hs]
    | waitLow => simp [classify_none_waitLow_iff hs, pairClass_eq_none_iff]
  · intro he
    have hy := hevent.1 he
    exact ⟨parse_sym.trans hy, parseRow_cmd_of_event (parse_row o s) (by simp [he]), parse_none_handling hy⟩

/-- Settles O30: a field takes a `Leader` as the event, and the leader state takes a data symbol as nothing. -/
theorem onlyALeaderInAFieldIsASequenceViolation : Obligations.OnlyALeaderInAFieldIsASequenceViolation := by
  intro s o ha
  refine ⟨?_, ?_, ?_⟩
  · intro hfield hy
    have hf : s.fstate ≠ .parsingLeader := by rcases hfield with h | h <;> simp [h]
    exact ⟨_, (exec_obsInstr o).2 ⟨ha, parse_leader_in_field hf hy⟩, rfl, takeEvent_registersReset _ _⟩
  · intro hf hdata
    have hne : (classify o s).2 ≠ .leader ∧ (classify o s).2 ≠ .none := by
      rcases hdata with hy | hy <;> simp [hy]
    obtain ⟨t, hexec, hframe, -, -, hout⟩ := (parsingLeaderWaitsForALeader s o ha hf).2 hne.1
    exact ⟨t, hexec, by rw [hout]; exact if_neg hne.2, hframe⟩
  · intro t h he
    obtain ⟨-, rfl⟩ := (exec_obsInstr o).1 h
    obtain ⟨hy, hf⟩ := parse_sequenceViolation_iff.1 he
    refine ⟨hy, ?_⟩
    cases hs : s.fstate with
    | parsingLeader => exact absurd hs hf
    | parsingAddress => exact .inl rfl
    | parsingCommand => exact .inr rfl

/-- The outputs of a reset step, packed (70_reset_and_hazards.md R140). -/
theorem outputWord_frameReset (s : State) : outputWord (frameReset s).out = 0#15 := by
  have hidle : outputWord ⟨none, .noEvent, .pending⟩ = 0#15 := by decide
  exact hidle

/-- Settles O47: the cycle is the full reset at either port, for its word is never decoded. -/
theorem hardwareResetWinsOverEverything : Obligations.HardwareResetWinsOverEverything :=
  fun _ _ _ ha hi => ⟨_, step_rst ha hi, frameReset_registersReset _, outputWord_frameReset _, rfl, rfl⟩

end Sys2Proof.Machine

namespace Sys2Proof.Machine

/-- The state right after reset is the one a reset step answers with and leaves as it is
(70_reset_and_hazards.md R140, R141). -/
theorem frameReset_stateReset : frameReset State.reset = State.reset := rfl

/-- The defaults of 10_state.md section 5 are a configuration the block is run with (R21 to R28). -/
theorem configDefault_admitted : Config.default.Admitted := by decide

/-- Settles O48: the registers and outputs are those every reset step leaves, since a reset step keeps the reset
state, and the configuration is the default one. -/
theorem resetStateIsTheSpecs : Obligations.ResetStateIsTheSpecs := by
  have hregs : State.reset.RegistersReset := frameReset_stateReset ▸ frameReset_registersReset State.reset
  have hout : outputWord State.reset.out = 0#15 := frameReset_stateReset ▸ outputWord_frameReset State.reset
  obtain ⟨hsstate, hpending, hfstate, haddress, hcommand, hbit⟩ := hregs
  exact ⟨hfstate, haddress, hcommand, hbit, hsstate, hpending, hout, rfl, rfl, rfl, configDefault_admitted⟩

end Sys2Proof.Machine
